-- ==== Sys2Proof/Word.lean ====
section
/-! DEFINITION. The words of the part: bytes as they travel on its serial lines, the 16-bit sums and
check values, and the character codes that the rules treat apart (R190). -/

namespace Sys2Proof

/-- One byte of a frame or message, and one character of a text (R190: a character occupies one byte). -/
abbrev Byte := BitVec 8

/-- A sum, a check or a 2-byte number of a frame (R12, R171). -/
abbrev Half := BitVec 16

/-- A set of stations as the frames carry it: bit n stands for station n (R190, section 11.3). -/
abbrev StationSet := BitVec 8

/-- A station number, 0 to 7. -/
abbrev StationId := Fin 8

/-- The byte that carries the number `n` (R190). -/
def byteOf (n : Nat) : Byte := BitVec.ofNat 8 n

/-- The sum of bytes modulo 65536, each byte as an unsigned value (R12, R171). -/
def byteSum : List Byte → Half
  | [] => 0#16
  | b :: bs => b.setWidth 16 + byteSum bs

/-- The two bytes of a 16-bit number, high byte first (R190). -/
def halfBytes (x : Half) : List Byte := [x.extractLsb' 8 8, x.extractLsb' 0 8]

/-- The 16-bit number of two bytes, high byte first (R190). -/
def halfOf (hi lo : Byte) : Half := hi ++ lo

/-- A text written in Lean as characters. -/
def textOf (cs : List Char) : List Byte := cs.map fun c => byteOf c.toNat

/-- The character codes that R190 lists as treated apart. -/
def blank : Byte := 0x20#8
/-- "*" -/
def star : Byte := 0x2A#8
/-- "-" -/
def minus : Byte := 0x2D#8
/-- "." -/
def point : Byte := 0x2E#8
/-- "/" -/
def slash : Byte := 0x2F#8
/-- "?" -/
def question : Byte := 0x3F#8
/-- "0" -/
def zero : Byte := 0x30#8

end Sys2Proof
end

