-- ==== Sys2Proof/Syntax.lean ====
section
/-! DEFINITION. The commands of the part, one constructor per row of spec/opcode_table.json, and the
records that their operands carry: the table records of chapter 1, the orders of chapter 8, the requests
of chapter 10 and the received station line byte of chapter 11. -/

namespace Sys2Proof

/-- Whether the clerk may key into a field (R3). -/
inductive FieldKind where
  | input
  | fixed
  deriving DecidableEq, Repr

/-- A field definition (R3). -/
structure FieldDef where
  number : Nat
  page : Nat
  row : Nat
  column : Nat
  length : Nat
  kind : FieldKind
  skip : Bool
  bright : Bool
  hidden : Bool
  /-- the validation class; 0 means no class -/
  cls : Nat
  /-- the default text as loaded, 0 to 79 characters -/
  default : List Byte
  deriving DecidableEq, Repr

/-- The operation of a computation rule (R4). -/
inductive RuleOp where
  | product
  | percent
  | sum
  | difference
  deriving DecidableEq, Repr

/-- A computation rule (R4). For PRODUCT, PERCENT and DIFFERENCE the sources are a, then b. -/
structure Rule where
  number : Nat
  op : RuleOp
  sources : List Nat
  target : Nat
  places : Nat
  signed : Bool
  report : Bool
  deriving DecidableEq, Repr

/-- A form definition without its form number, which is its key (R2). -/
structure FormDef where
  pages : Nat
  cycle : Bool
  /-- bit n − 1 stands for Fn (R192) -/
  shortKeys : BitVec 12
  /-- the initial cursor's field number, or absent -/
  initial : Option Nat
  fields : List FieldDef
  rules : List Rule
  deriving DecidableEq, Repr

/-- The kind of a validation class (R6). -/
inductive ClassKind where
  | text
  | alpha
  | digits
  | decimal
  deriving DecidableEq, Repr

/-- A validation class without its class number, which is its key (R6). -/
structure ClassDef where
  kind : ClassKind
  places : Nat
  signed : Bool
  mandatoryEntry : Bool
  mandatoryFill : Bool
  fold : Bool
  low : Option Int
  high : Option Int
  deriving DecidableEq, Repr

/-- A scan route without its entry number, which is its key (R7). -/
structure RouteDef where
  /-- the form filter; `none` is ANY -/
  form : Option Nat
  pattern : List Byte
  /-- bit i marks pattern position i + 1 must-match (R192) -/
  mask : BitVec 8
  length : Nat
  strip : Nat
  target : Nat
  deriving DecidableEq, Repr

/-- What a STAGE loads: entries of one table kind, each a key number with a full record, or with `none`
for a remove marker (R9, R192). -/
inductive StageLoad where
  | forms (entries : List (Nat × Option FormDef))
  | classes (entries : List (Nat × Option ClassDef))
  | routes (entries : List (Nat × Option RouteDef))
  deriving DecidableEq, Repr

/-- A tone of the head (R53). -/
inductive Tone where
  | short
  | long
  deriving DecidableEq, Repr

/-- Attributes placed by the host on a field (R32, R33). -/
structure Override where
  kind : FieldKind
  bright : Bool
  deriving DecidableEq, Repr

/-- One field update of a WRITE (R139, R193). -/
structure Update where
  field : Nat
  override : Option Override
  text : List Byte
  deriving DecidableEq, Repr

/-- The options and updates of a WRITE (section 8.4). -/
structure WriteOrder where
  eraseInput : Bool
  clearMarks : Bool
  resetTouched : Bool
  /-- the PAGE option's page -/
  page : Option Nat
  /-- the CURSOR option's field number and offset -/
  cursor : Option (Nat × Nat)
  restore : Bool
  tone : Option Tone
  updates : List Update
  deriving DecidableEq, Repr

/-- Conflict policy (R150). -/
inductive Policy where
  | keep
  | override
  deriving DecidableEq, Repr

/-- Scan fallback (R150). -/
inductive Fallback where
  | reject
  | wedge
  deriving DecidableEq, Repr

/-- The settings a STATION SET carries; a setting it does not carry is `none` (R150). -/
structure SettingsChange where
  typeahead : Option Bool
  timeout : Option Nat
  policy : Option Policy
  fallback : Option Fallback
  scanner : Option Bool
  tone : Option Bool
  deriving DecidableEq, Repr

/-- A host request as its payload decodes (R176, R192 to R194). -/
inductive Request where
  | stage (load : StageLoad)
  | discard
  | commit (check : Half)
  /-- bit 0 FORM, bit 1 CLASS, bit 2 ROUTE -/
  | lock (kinds : BitVec 3)
  | showForm (stations : StationSet) (form : Nat) (hold : Bool)
  | write (stations : StationSet) (order : WriteOrder)
  | notice (stations : StationSet) (tone : Option Tone) (text : List Byte)
  | hold (stations : StationSet)
  | release (stations : StationSet)
  | page (stations : StationSet) (page : Nat)
  | reread (stations : StationSet)
  | stationSet (stations : StationSet) (change : SettingsChange)
  | stationReset (stations : StationSet)
  | suspend (stations : StationSet)
  | resume (stations : StationSet)
  | pollScan (stations : StationSet)
  | pollNext (stations : StationSet)
  | status
  | stationStatus (station : StationId)
  | identify
  /-- bit n is the enable of kind n (R194) -/
  | enableEvents (enables : BitVec 11)
  /-- the part flags and the station flags named (R194) -/
  | clearEvents (part : BitVec 3) (flags : Vector (BitVec 8) 8)
  | partReset
  deriving DecidableEq, Repr

/-- A byte as a station line's receiver delivers it, with the marks for a parity error and for a bit-level
framing error that the receiver puts on it (R156, R199). -/
structure LineByte where
  value : Byte
  parity : Bool
  framing : Bool
  deriving DecidableEq, Repr

/-- The commands, one constructor per row of spec/opcode_table.json, in the table's order (the last row
of the table is the last constructor). -/
inductive Instr where
  | powerOn
  /-- the byte received where a frame's second check byte is due -/
  | requestFrame (byte : Byte)
  /-- the byte received where a frame's second length byte is due -/
  | frameLengthError (byte : Byte)
  | responseTransmissionComplete
  | stage (tag : Byte) (load : StageLoad)
  | discard (tag : Byte)
  | commit (tag : Byte) (check : Half)
  | lock (tag : Byte) (kinds : BitVec 3)
  /-- SHOW -/
  | showForm (tag : Byte) (stations : StationSet) (form : Nat) (hold : Bool)
  | write (tag : Byte) (stations : StationSet) (order : WriteOrder)
  | notice (tag : Byte) (stations : StationSet) (tone : Option Tone) (text : List Byte)
  | hold (tag : Byte) (stations : StationSet)
  | release (tag : Byte) (stations : StationSet)
  | page (tag : Byte) (stations : StationSet) (page : Nat)
  | reread (tag : Byte) (stations : StationSet)
  | stationSet (tag : Byte) (stations : StationSet) (change : SettingsChange)
  | stationReset (tag : Byte) (stations : StationSet)
  | suspend (tag : Byte) (stations : StationSet)
  | resume (tag : Byte) (stations : StationSet)
  | pollScan (tag : Byte) (stations : StationSet)
  | pollNext (tag : Byte) (stations : StationSet)
  | status (tag : Byte)
  | stationStatus (tag : Byte) (station : StationId)
  | identify (tag : Byte)
  | enableEvents (tag : Byte) (enables : BitVec 11)
  | clearEvents (tag : Byte) (part : BitVec 3) (flags : Vector (BitVec 8) 8)
  | holdOffExpiry
  | partReset (tag : Byte)
  | key (station : StationId) (code : Byte)
  | scan (station : StationId) (good : Bool) (text : List Byte)
  | attn (station : StationId)
  | alive (station : StationId)
  /-- the bytes received on the station line, in their order -/
  | damagedMessage (station : StationId) (bytes : List LineByte)
  | silenceTimerExpiry (station : StationId)
  | transmissionComplete (station : StationId)
  | responseTimerExpiry (station : StationId)
  | char (station : StationId)
  | insert (station : StationId)
  | delete (station : StationId)
  | backspace (station : StationId)
  | eraseField (station : StationId)
  | eraseInput (station : StationId)
  | tab (station : StationId)
  | backtab (station : StationId)
  | up (station : StationId)
  | down (station : StationId)
  | left (station : StationId)
  | right (station : StationId)
  | home (station : StationId)
  | newline (station : StationId)
  | pageNext (station : StationId)
  | pagePrior (station : StationId)
  | reset (station : StationId)
  | enter (station : StationId)
  | functionKey (station : StationId)
  | cancel (station : StationId)
  | clear (station : StationId)
  | scanItem (station : StationId)
  | hostLineByteReceived (byte : Byte)
  deriving DecidableEq, Repr

end Sys2Proof
end

