-- ==== Sys2Proof/Config.lean ====
section
/-! DEFINITION. What is fixed for the part: the capacities and constants of the overview's table
(00_scope.md, Capacities and constants), and the free values the model needs. -/

namespace Sys2Proof.Config

/-- Stations (00_scope.md, Capacities and constants). -/
def stations : Nat := 8
/-- Pages per form (R2). -/
def pages : Nat := 4
/-- Forms in the library (R1). -/
def forms : Nat := 32
/-- Validation classes (R1). -/
def classes : Nat := 31
/-- Scan routes (R1). -/
def routes : Nat := 16
/-- Fields per form, and the largest field number (R2, R3). -/
def fieldsPerForm : Nat := 96
/-- Computation rules per form, and the largest rule number (R2, R4). -/
def rulesPerForm : Nat := 16
/-- Field definitions over all active forms (R1, R21). -/
def fieldCapacity : Nat := 1024
/-- Staged entries (R9). -/
def stagingCapacity : Nat := 64
/-- Outstanding host requests (R172). -/
def outstandingRequests : Nat := 4
/-- Request payload bytes (R170). -/
def payloadCapacity : Nat := 1024
/-- Updates of one WRITE (R133). -/
def updatesPerWrite : Nat := 64
/-- Characters of an update text (R133). -/
def updateText : Nat := 79
/-- Characters of a notice (R133, R147). -/
def noticeText : Nat := 40
/-- Items of a key queue (R47). -/
def keyQueue : Nat := 16
/-- Spans of a paint queue (R161). -/
def paintQueue : Nat := 16
/-- The count at which the scanner is suspended (R104). -/
def scanErrorLimit : Nat := 32
/-- Positions of the form area (00_scope.md, Positions). -/
def positions : Nat := 1840
/-- Where a saturating counter stops (R156, R174), and the largest generation (R23). -/
def counterTop : Nat := 65535
/-- The bound of a limit (R6). -/
def limitBound : Int := 999999999999999
/-- Response timeout after power-on, in seconds (R150). -/
def responseTimeout : Nat := 30
/-- Line-silence timeout, in seconds (R157). -/
def silenceSeconds : Nat := 3
/-- SRQ hold-off, in milliseconds (R188). -/
def holdOffMilliseconds : Nat := 200

/-- FREE VALUE (log 9, DESIGN CHOICE). R18 says that DUPFIELD and DUPRULE name "that field number" or
"that rule number" and does not say which one when several numbers are duplicated. The model takes one
of the duplicated numbers, by this index into their list; nothing says which. -/
opaque duplicateChoice : List Nat → Nat

/-- FREE VALUE (log 21, DESIGN CHOICE). R195 codes the causes of REFUSE INVALID in a table that leaves out
the cause CLASS of R18. The model gives that cause this byte; nothing says which it is. -/
opaque classCauseCode : BitVec 8

end Sys2Proof.Config
end

