-- ==== Sys2Proof/Machine/Image.lean ====
section
/-! DEFINITION. The screen image (section 2.4): 24 rows of 80 places, each a character and a rendition,
and the layout of its status line (R40). -/

namespace Sys2Proof.Machine

/-- How a screen position is shown (R39). -/
inductive Rendition where
  | normal
  | underline
  | bright
  | reverse
  deriving DecidableEq, Repr

/-- One place of the screen image. -/
structure Place where
  char : Byte
  rend : Rendition
  deriving DecidableEq, Repr

/-- The screen image: its rows 1 to 24, each its columns 1 to 80. -/
abbrev Image := List (List Place)

/-- A text padded with blanks on the right, or cut, to `n` characters (00_scope.md, Characters and text). -/
def padCut (n : Nat) (t : List Byte) : List Byte := (t ++ List.replicate n blank).take n

/-- Text in one rendition. -/
def shown (r : Rendition) (t : List Byte) : List Place := t.map fun c => ⟨c, r⟩

/-- A row of blanks in NORMAL. -/
def blankRow : List Place := List.replicate 80 ⟨blank, .normal⟩

/-- The areas of the status line (R40), each a text that is padded to its area. -/
structure StatusAreas where
  notice : List Byte
  keyboard : List Byte
  /-- the keyboard indicator area is in REVERSE -/
  reverse : Bool
  page : List Byte
  insert : List Byte
  scanner : List Byte
  attention : List Byte
  deriving DecidableEq, Repr

/-- Row 24 from its areas (R40): columns 1–40, 42–49, 51–54, 56–58, 60–66 and 68–71, blanks between and
after. -/
def statusRow (a : StatusAreas) : List Place :=
  shown .normal (padCut 41 (padCut 40 a.notice)) ++
    shown (if a.reverse then .reverse else .normal) (padCut 8 a.keyboard) ++
    shown .normal (blank :: padCut 5 (padCut 4 a.page) ++ padCut 4 (padCut 3 a.insert) ++
      padCut 8 (padCut 7 a.scanner) ++ padCut 13 (padCut 4 a.attention))

/-- The status line of NO-FORM, with the scanner indicator's text (R40). -/
def noFormStatus (scanner : List Byte) : List Place :=
  statusRow ⟨[], textOf ['N', 'O', ' ', 'F', 'O', 'R', 'M'], false, [], [], scanner, []⟩

/-- The status line of SUSPENDED: "SUSPENDED" in columns 42 to 50 (R40). -/
def suspendedStatus : List Place :=
  shown .normal (padCut 80 (List.replicate 41 blank ++ textOf ['S', 'U', 'S', 'P', 'E', 'N', 'D', 'E', 'D']))

/-- Rows 1 to 23 blank in NORMAL, with a status line (R39, R40). -/
def blankImage (status : List Place) : Image := List.replicate 23 blankRow ++ [status]

/-- The NO-FORM image with the scanner ENABLED, which is the image at power-on (R46). -/
def powerOnImage : Image := blankImage (noFormStatus [])

end Sys2Proof.Machine
end

