-- ==== Sys2Proof/Machine/State.lean ====
section
/-! DEFINITION. The state of the part as plain data (INVENTORY.md, State), and its value after power-on. -/

namespace Sys2Proof.Machine

/-! ## The Form Library (chapter 1) -/

/-- A table keyed by number, in ascending key order, one record per number (R1). -/
abbrev Table (α : Type) := List (Nat × α)

/-- A form of the active form table: its definition as loaded, with the computation order the FLB derived
for it (R2, R5). -/
structure ActiveForm where
  defn : FormDef
  order : List Nat
  deriving DecidableEq, Repr

/-- The Form Library: the active tables, the staging area with its running sum, the generation number and
the lock set (R1, R9, R23, R24). In a staged table `none` is a remove marker. -/
structure Library where
  forms : Table ActiveForm
  classes : Table ClassDef
  routes : Table RouteDef
  stagedForms : Table (Option FormDef)
  stagedClasses : Table (Option ClassDef)
  stagedRoutes : Table (Option RouteDef)
  sum : Half
  generation : Nat
  /-- bit 0 FORM, bit 1 CLASS, bit 2 ROUTE -/
  locks : BitVec 3
  deriving DecidableEq, Repr

/-! ## The form instance (chapter 2) -/

/-- An error mark (R32, R86). -/
inductive Mark where
  | char
  | format
  | rangeLow
  | rangeHigh
  | mandatory
  deriving DecidableEq, Repr

/-- The result of a computation rule: a value in units of 10^−places, or a state with no value (R88). -/
inductive Result where
  | value (v : Int)
  | blank
  | overflow
  | undefined
  deriving DecidableEq, Repr

/-- A field record (R32). `result` is present for computed fields only. -/
structure FieldRec where
  defn : FieldDef
  content : List Byte
  override : Option Override
  touched : Bool
  mark : Option Mark
  result : Option Result
  deriving DecidableEq, Repr

/-- A form instance (R31). -/
structure FormInstance where
  number : Nat
  generation : Nat
  defn : FormDef
  order : List Nat
  classes : Table ClassDef
  fields : List FieldRec
  page : Nat
  /-- visited-page set; bit p − 1 for page p (R198) -/
  visited : BitVec 4
  settling : Bool
  cursor : Nat
  insert : Bool
  deriving DecidableEq, Repr

/-! ## The station composer (chapters 2, 3, 7 and 8) -/

/-- Station state (R26). -/
inductive StationState where
  | noForm
  | active
  | suspended
  deriving DecidableEq, Repr

/-- The reason of an INHIBITED keyboard (R52). -/
inductive Reason where
  | prot
  | char
  | full
  | format
  | range
  | mand
  | route
  | pend
  deriving DecidableEq, Repr

/-- Keyboard state (R41). -/
inductive Keyboard where
  | free
  | inhibited (r : Reason)
  | waiting
  | timedOut
  | held
  deriving DecidableEq, Repr

/-- EDIT items (R47). -/
inductive EditKey where
  | insert
  | delete
  | backspace
  | eraseField
  | eraseInput
  deriving DecidableEq, Repr

/-- MOVE items (R47). -/
inductive MoveKey where
  | tab
  | backtab
  | up
  | down
  | left
  | right
  | home
  | newline
  | pageNext
  | pagePrior
  deriving DecidableEq, Repr

/-- INTENT items (R47): ENTER, F1 to F12 (`function 0` is F1), CANCEL and CLEAR. -/
inductive SendKey where
  | enter
  | function (n : Fin 12)
  | cancel
  | clear
  deriving DecidableEq, Repr

/-- An item of the key queue (R47). -/
inductive Item where
  | char (c : Byte)
  | edit (k : EditKey)
  | move (k : MoveKey)
  | reset
  | intent (k : SendKey)
  | scan (text : List Byte)
  deriving DecidableEq, Repr

/-- The intent of an entry record (R121). -/
inductive Intent where
  | key (k : SendKey)
  | reread
  deriving DecidableEq, Repr

/-- A member of an entry's computed-field list (R122). -/
structure ComputedMember where
  field : Nat
  result : Result
  text : List Byte
  deriving DecidableEq, Repr

/-- An entry record (R121). -/
structure Entry where
  station : StationId
  intent : Intent
  page : Nat
  row : Nat
  column : Nat
  visited : BitVec 4
  generation : Nat
  /-- touched-field list: field number and content (R122) -/
  touched : List (Nat × List Byte)
  computed : List ComputedMember
  deriving DecidableEq, Repr

/-- The six station settings (R150). -/
structure Settings where
  typeahead : Bool
  timeout : Nat
  policy : Policy
  fallback : Fallback
  scanner : Bool
  tone : Bool
  deriving DecidableEq, Repr

/-! ## The station line unit (chapters 6 and 9) -/

/-- A span: a run of columns on one row, from the first to the last (section 9.4). -/
structure Span where
  row : Nat
  first : Nat
  last : Nat
  deriving DecidableEq, Repr

/-- A downstream message (R154). -/
inductive Message where
  | paint (row column : Nat) (text : List Byte) (runs : List (Rendition × Nat))
  | erase
  | cursor (row column : Nat)
  | tone (t : Tone)
  deriving DecidableEq, Repr

/-- Scanner state (R106). -/
inductive ScannerState where
  | enabled
  | suspended
  | disabled
  deriving DecidableEq, Repr

/-- The upstream receiver of a line unit: waiting for a start byte, or reading a message, with the marks its
bytes have had so far and the bytes read after the start byte: the type, the length and the body (R199,
log 22). -/
inductive Receiver where
  | waiting
  | reading (parity framing : Bool) (bytes : List Byte)
  deriving DecidableEq, Repr

/-- A station line unit. `repaint` is the next row of the repaint of the whole screen in progress: 1 while
its ERASE-SCREEN is in flight, 25 while the PAINT of row 24 is (R162, R163). A timer that runs holds the
duration it was started from. -/
structure LineUnit where
  up : Bool
  /-- silence timer, in seconds -/
  silence : Option Nat
  paintQueue : List Span
  repaintAll : Bool
  inFlight : Option Message
  repaint : Option Nat
  tone : Option Tone
  /-- last cursor sent; `none` is unknown -/
  lastCursor : Option Nat
  parityErrors : Nat
  framingErrors : Nat
  scanErrors : Nat
  scanner : ScannerState
  receiver : Receiver
  deriving DecidableEq, Repr

/-- A station: its composer and its line unit. -/
structure Station where
  state : StationState
  form : Option FormInstance
  keyboard : Keyboard
  queue : List Item
  slot : Option Entry
  attention : Bool
  /-- response timer, in seconds -/
  timer : Option Nat
  settings : Settings
  notice : List Byte
  image : Image
  line : LineUnit
  deriving DecidableEq, Repr

/-! ## Responses (chapters 8, 10 and 11) -/

/-- A refusal code (section 10.2, R195). -/
inductive RefuseCode where
  | format
  | emptySet
  | length
  | locked
  | full
  | noStage
  | check
  | busy
  | noForm
  | suspended
  | pending
  | badPage
  | badField
  deriving DecidableEq, Repr

/-- The table an INVALID response names (R16, R195). -/
inductive TableKind where
  | form
  | cls
  | route
  deriving DecidableEq, Repr

/-- The causes of REFUSE INVALID (R17 to R20). -/
inductive Cause where
  | classDef
  | dupField
  | dupRule
  | initial
  | page
  | place
  | overlap
  | attr
  | cls
  | width
  | default
  | source
  | target
  | dupTarget
  | cycle
  | formRef
  | routeField
  deriving DecidableEq, Repr

/-- The first offence of a merged view (R16). -/
structure Offence where
  table : TableKind
  entry : Nat
  cause : Cause
  item : Nat
  deriving DecidableEq, Repr

/-- What a REFUSE carries (R176, R195). -/
inductive RefuseReason where
  | code (c : RefuseCode)
  | invalid (o : Offence)
  | capacity (total : Nat)
  deriving DecidableEq, Repr

/-- Why a WRITE update was skipped (R140). -/
inductive SkipReason where
  | unknown
  | computed
  | kept
  deriving DecidableEq, Repr

/-- One member of an outcome list (R134). -/
inductive StationOutcome where
  | applied (late : Bool) (skipped : List (Nat × SkipReason)) (cut : List Nat)
  | refused (c : RefuseCode)
  deriving DecidableEq, Repr

/-- Poll state (R177). -/
inductive PollState where
  | idle
  | scanning
  deriving DecidableEq, Repr

/-- The content of a part-wide STATUS (R181). -/
structure StatusReport where
  partFlags : BitVec 3
  stationFlags : Vector (BitVec 8) 8
  enables : BitVec 11
  holdOff : Bool
  srq : Bool
  checkErrors : Nat
  lengthErrors : Nat
  overruns : Nat
  outstanding : Nat
  polling : PollState
  group : StationSet
  pointer : StationId
  generation : Nat
  filling : Bool
  staged : Nat
  locks : BitVec 3
  forms : Nat
  classes : Nat
  routes : Nat
  /-- station state and line state of stations 0 to 7 -/
  stations : List (StationState × Bool)
  deriving DecidableEq, Repr

/-- The instance items of a station STATUS (R182, R197). -/
structure FormReport where
  number : Nat
  generation : Nat
  page : Nat
  pages : Nat
  row : Nat
  column : Nat
  deriving DecidableEq, Repr

/-- The content of a STATUS for one station (R182). -/
structure StationReport where
  station : StationId
  state : StationState
  keyboard : Keyboard
  settling : Bool
  insert : Bool
  occupied : Bool
  attention : Bool
  timerRunning : Bool
  form : Option FormReport
  items : Nat
  settings : Settings
  up : Bool
  parityErrors : Nat
  framingErrors : Nat
  scanErrors : Nat
  scanner : ScannerState
  spans : Nat
  repaintAll : Bool
  flags : BitVec 8
  deriving DecidableEq, Repr

/-- What an ACCEPT carries (R176, R195). -/
inductive AcceptBody where
  | stage (held : Nat)
  | discard (removed : Nat)
  | commit (generation forms classes routes : Nat)
  | lock (kinds : BitVec 3)
  /-- a station order or REREAD, by its request's kind code -/
  | outcomes (kind : Byte) (list : List (StationId × StationOutcome))
  | enableEvents (enables : BitVec 11)
  | clearEvents (part : BitVec 3) (flags : Vector (BitVec 8) 8)
  | identify
  | status (report : StatusReport)
  | stationStatus (report : StationReport)
  | partReset
  deriving DecidableEq, Repr

/-- A response (R176, R191). -/
inductive Response where
  | accept (body : AcceptBody)
  /-- the kind byte of the request as it was received, and the reason -/
  | refuse (kind : Byte) (reason : RefuseReason)
  | entry (station : StationId) (attention : Bool) (entry : Option Entry)
  | pollEnd (count : Nat)
  deriving DecidableEq, Repr

/-! ## The Host Line Controller and the Event Unit (chapter 10) -/

/-- The receive framer (R170). HEADER has recorded 0 to 3 bytes; CHECK may have recorded the first check
byte. The running sum covers the bytes from kind through payload. -/
inductive Framer where
  | hunt
  | header (sum : Half) (recorded : List Byte)
  | payload (sum : Half) (kind tag : Byte) (length : Nat) (recorded : List Byte)
  | check (sum : Half) (kind tag : Byte) (payload : List Byte) (first : Option Byte)
  deriving DecidableEq, Repr

/-- A response frame of the transmit side (R175). `last`: it is the last frame of its request's answer.
`counted`: its request is still counted as outstanding (R184). `endsScan`: it is the POLL-END of a SCAN
(R177). -/
structure TxFrame where
  tag : Byte
  response : Response
  last : Bool
  counted : Bool
  endsScan : Bool
  deriving DecidableEq, Repr

/-- The Host Line Controller (R170, R172, R174, R175, R177). -/
structure HostLine where
  framer : Framer
  outstanding : Nat
  txQueue : List TxFrame
  inTx : Option TxFrame
  checkErrors : Nat
  lengthErrors : Nat
  overruns : Nat
  polling : PollState
  group : StationSet
  pointer : StationId
  deriving DecidableEq, Repr

/-- The Event Unit (R186 to R189). Station flags: bit n for per-station kind n; part flags: bit 0
POWER-ON, bit 1 HOST-OVERRUN, bit 2 FRAME-ERROR; enables: bit n for kind n (R194). -/
structure EventUnit where
  partFlags : BitVec 3
  stationFlags : Vector (BitVec 8) 8
  enables : BitVec 11
  /-- hold-off timer, in milliseconds -/
  holdOff : Option Nat
  /-- the SRQ output; true is asserted -/
  srq : Bool
  deriving DecidableEq, Repr

/-- The whole part, with the queue of commands that wait. -/
structure State where
  library : Library
  host : HostLine
  events : EventUnit
  stations : Vector Station 8
  /-- the model's own: commands that wait, first in, first out (log 6) -/
  pending : List Instr
  deriving DecidableEq, Repr

/-- A stop of the machine. The part has none (INVENTORY.md, Faults): every event has an effect in every
state, so this type has no constructor. -/
inductive Fault where
  deriving DecidableEq, Repr

/-- A command without a meaning. -/
inductive Refusal where
  /-- Raised only by an arm of `exec` whose command has no meaning yet; no arm is such an arm. Safe: it
  stops where the part goes on. -/
  | notModelled (mnemonic : String)
  deriving DecidableEq, Repr

/-! ## After power-on -/

/-- The library after power-on (R25). -/
def Library.reset : Library where
  forms := []
  classes := []
  routes := []
  stagedForms := []
  stagedClasses := []
  stagedRoutes := []
  sum := 0#16
  generation := 0
  locks := 0#3

/-- The station settings after power-on (R150). -/
def Settings.reset : Settings where
  typeahead := false
  timeout := Config.responseTimeout
  policy := .keep
  fallback := .reject
  scanner := true
  tone := true

/-- A line unit after power-on (R169); its receiver waits for a start byte (R199). -/
def LineUnit.reset : LineUnit where
  up := false
  silence := none
  paintQueue := []
  repaintAll := true
  inFlight := none
  repaint := none
  tone := none
  lastCursor := none
  parityErrors := 0
  framingErrors := 0
  scanErrors := 0
  scanner := .enabled
  receiver := .waiting

/-- A station after power-on (R46, R71, R132, R169). -/
def Station.reset : Station where
  state := .noForm
  form := none
  keyboard := .free
  queue := []
  slot := none
  attention := false
  timer := none
  settings := Settings.reset
  notice := List.replicate 40 blank
  image := powerOnImage
  line := LineUnit.reset

/-- The host line controller after power-on (R185). -/
def HostLine.reset : HostLine where
  framer := .hunt
  outstanding := 0
  txQueue := []
  inTx := none
  checkErrors := 0
  lengthErrors := 0
  overruns := 0
  polling := .idle
  group := 0#8
  pointer := 0

/-- The enables after power-on: ENTRY-READY, ATTENTION, RESPONSE-TIMEOUT and POWER-ON (R185). -/
def enablesReset : BitVec 11 := 0b00100000111#11

/-- The event unit after power-on: POWER-ON pending, SRQ asserted (R185). -/
def EventUnit.reset : EventUnit where
  partFlags := 0b001#3
  stationFlags := Vector.replicate 8 0#8
  enables := enablesReset
  holdOff := none
  srq := true

/-- The part right after RESETN is released (R185), with no command waiting. -/
def State.reset : State where
  library := Library.reset
  host := HostLine.reset
  events := EventUnit.reset
  stations := Vector.replicate 8 Station.reset
  pending := []

end Sys2Proof.Machine
end

