-- ==== Sys2Proof/Machine/Numeric.lean ====
section
/-! DEFINITION. Numbers in fields: the numeric reading of a content (R75 to R77) and the arithmetic and
display of computation rules (sections 5.2 to 5.5). -/

namespace Sys2Proof.Machine

/-- The blank, 0x20. -/
def isBlank (c : Byte) : Bool := c == blank

/-- Digits 0 to 9. -/
def isDigit (c : Byte) : Bool := decide (0x30 ≤ c.toNat) && decide (c.toNat ≤ 0x39)

/-- A text without its trailing blanks. -/
def trimRight (t : List Byte) : List Byte := (t.reverse.dropWhile isBlank).reverse

/-- A text without its leading and trailing blanks. -/
def trim (t : List Byte) : List Byte := trimRight (t.dropWhile isBlank)

/-- The numeric reading of a content (R75). -/
inductive Reading where
  | blank
  | format
  | value (v : Int)
  deriving DecidableEq, Repr

/-- The integer that a string of digits writes. -/
def digitsValue (ds : List Byte) : Nat := ds.foldl (fun n d => n * 10 + (d.toNat - 0x30)) 0

/-- The value of a content that has the form: the fraction padded with zeros to `places` digits, read
together with the whole part, negative after a "-" (R76). -/
def scaledValue (places : Nat) (negative : Bool) (whole fraction : List Byte) : Int :=
  let n := digitsValue (whole ++ (fraction ++ List.replicate (places - fraction.length) zero))
  if negative then -(n : Int) else n

/-- The reading of what stands after the sign (R75 step 2, R76). -/
def readUnsigned (places : Nat) (negative : Bool) (t : List Byte) : Reading :=
  let whole := t.takeWhile isDigit
  match t.dropWhile isDigit with
  | [] => if whole.isEmpty then .format else .value (scaledValue places negative whole [])
  | c :: fraction =>
    if c == point && decide (1 ≤ places) && fraction.all isDigit && !(whole ++ fraction).isEmpty &&
        decide (fraction.length ≤ places) then
      .value (scaledValue places negative whole fraction)
    else .format

/-- The numeric reading (R75). A DIGITS field is read with places 0 and no sign (R77). -/
def numericReading (places : Nat) (signed : Bool) (content : List Byte) : Reading :=
  match trim content with
  | [] => .blank
  | c :: t => if signed && c == minus then readUnsigned places true t else readUnsigned places false (c :: t)

/-! ## Operands (R89, R90) -/

/-- An operand of a rule (R89). -/
inductive Operand where
  | blank
  | undefined
  | overflow
  | value (v : Int) (places : Nat)
  deriving DecidableEq, Repr

/-- The integer and the places of an operand; a BLANK one counts as 0 at places 0 (R90 row 5). -/
def Operand.number : Operand → Int × Nat
  | .value v p => (v, p)
  | .blank | .undefined | .overflow => (0, 0)

/-- A raw result with its raw places, or a result decided before any arithmetic (R90). -/
inductive Raw where
  | decided (r : Result)
  | number (v : Int) (places : Nat)
  deriving DecidableEq, Repr

/-- The largest places among the operands (R92). -/
def maxPlaces (ops : List Operand) : Nat := ops.foldl (fun q o => max q o.number.2) 0

/-- An operand brought exactly to `q` places (R92). -/
def Operand.brought (q : Nat) (o : Operand) : Int := o.number.1 * 10 ^ (q - o.number.2)

/-- The product of two operands with its raw places and `extra` more (R91). -/
def productRaw (extra : Nat) : List Operand → Raw
  | [a, b] => .number (a.number.1 * b.number.1) (a.number.2 + b.number.2 + extra)
  | _ => .decided .undefined

/-- The sum of the operands at their largest places (R92). -/
def sumRaw (ops : List Operand) : Raw :=
  .number ((ops.map (Operand.brought (maxPlaces ops))).sum) (maxPlaces ops)

/-- The difference of two operands at their larger places (R93). -/
def differenceRaw : List Operand → Raw
  | [a, b] => .number (a.brought (maxPlaces [a, b]) - b.brought (maxPlaces [a, b])) (maxPlaces [a, b])
  | _ => .decided .undefined

/-- The outcome of a rule before the rescale: the first row of R90 that applies, then the operation (R91
to R93). -/
def rawResult (op : RuleOp) (ops : List Operand) : Raw :=
  if ops.contains .undefined then .decided .undefined
  else if ops.contains .overflow then .decided .overflow
  else
    match op with
    | .product => if ops.contains .blank then .decided .blank else productRaw 0 ops
    | .percent => if ops.contains .blank then .decided .blank else productRaw 2 ops
    | .sum => if ops.all (· == .blank) then .decided .blank else sumRaw ops
    | .difference => if ops.all (· == .blank) then .decided .blank else differenceRaw ops

/-! ## Rescale, sign and display (R94 to R97) -/

/-- Division by `d` rounded half away from zero (R94). -/
def divRound (v : Int) (d : Nat) : Int :=
  let q := if 2 * (v.natAbs % d) ≥ d then v.natAbs / d + 1 else v.natAbs / d
  if v < 0 then -(q : Int) else q

/-- The raw result `v` at `s` places brought to `pr` places (R94). -/
def rescale (v : Int) (s pr : Nat) : Int :=
  if s ≤ pr then v * 10 ^ (pr - s) else divRound v (10 ^ (s - pr))

/-- The decimal digits of `n` before the digits `acc`, at least one, with fuel. -/
def decimalAux : Nat → Nat → List Byte → List Byte
  | 0, _, acc => acc
  | fuel + 1, n, acc =>
    let acc' := byteOf (0x30 + n % 10) :: acc
    if n < 10 then acc' else decimalAux fuel (n / 10) acc'

/-- `n` in decimal digits with no leading zeros, 0 as "0" (R96). A number has no more decimal digits than
binary ones, so the fuel is enough. -/
def decimal (n : Nat) : List Byte := decimalAux (n.log2 + 1) n []

/-- A text made up to `n` characters with `c` on the left. -/
def padLeft (n : Nat) (c : Byte) (t : List Byte) : List Byte := List.replicate (n - t.length) c ++ t

/-- The display string of the value `v` at `pr` places (R96). -/
def displayString (v : Int) (pr : Nat) : List Byte :=
  (if v < 0 then [minus] else []) ++ decimal (v.natAbs / 10 ^ pr) ++
    (if pr = 0 then [] else point :: padLeft pr zero (decimal (v.natAbs % 10 ^ pr)))

/-- The content of a computed field of length `len` in a state that keeps no value (R97). -/
def stateText (len : Nat) : Result → List Byte
  | .value _ => List.replicate len blank
  | .blank => List.replicate len blank
  | .overflow => List.replicate len star
  | .undefined => padLeft len blank [question]

/-- The width test on a candidate value, and the content it gives (R96). -/
def displayValue (v : Int) (pr len : Nat) : Result × List Byte :=
  let t := displayString v pr
  if t.length ≤ len then (.value v, padLeft len blank t) else (.overflow, stateText len .overflow)

/-- The result and the content that a rule gives in a field of length `len` from its operands (R90 to
R97). -/
def ruleResult (r : Rule) (ops : List Operand) (len : Nat) : Result × List Byte :=
  match rawResult r.op ops with
  | .decided d => (d, stateText len d)
  | .number v s =>
    let c := rescale v s r.places
    if c < 0 && !r.signed then (.undefined, stateText len .undefined) else displayValue c r.places len

end Sys2Proof.Machine
end

