-- ==== Sys2Proof/Machine/Ops.lean ====
section
/-! DEFINITION. Named operations over the stores of the part: keyed tables, saturating counters,
positions, the stations of a set, and reading and writing one station. -/

namespace Sys2Proof.Machine

/-! ## Tables keyed by number (R1, R9, R15) -/

/-- The record of key `k`, if the table holds one. -/
def lookupKey {α : Type} (k : Nat) : Table α → Option α
  | [] => none
  | (k', v) :: t => if k = k' then some v else lookupKey k t

/-- Puts a record under key `k`, replacing the one held (R9, R15). -/
def putKey {α : Type} (k : Nat) (v : α) : Table α → Table α
  | [] => [(k, v)]
  | (k', v') :: t =>
    if k < k' then (k, v) :: (k', v') :: t
    else if k = k' then (k, v) :: t
    else (k', v') :: putKey k v t

/-- Takes the record of key `k` out, if the table holds one (R15). -/
def removeKey {α : Type} (k : Nat) (t : Table α) : Table α := t.filter fun e => e.1 != k

/-- Applies one staged entry: a record is put, a remove marker removes (R15). -/
def applyStaged {α : Type} (t : Table α) (e : Nat × Option α) : Table α :=
  match e.2 with
  | some v => putKey e.1 v t
  | none => removeKey e.1 t

/-! ## Counters, positions, sets -/

/-- Raises a saturating counter by 1 (R156, R174). -/
def bump (n : Nat) : Nat := min (n + 1) Config.counterTop

/-- The position of row `r`, column `c` (00_scope.md, Positions). -/
def positionOf (r c : Nat) : Nat := (r - 1) * 80 + (c - 1)

/-- The row of a position. -/
def rowOf (p : Nat) : Nat := p / 80 + 1

/-- The column of a position. -/
def columnOf (p : Nat) : Nat := p % 80 + 1

/-- The stations 0 to 7 in ascending order. -/
def allStations : List StationId := [0, 1, 2, 3, 4, 5, 6, 7]

/-- The members of a station set in ascending order (00_scope.md, Names). -/
def members (set : StationSet) : List StationId := allStations.filter fun i => set.getLsbD i.val

/-- The visited-page set with a page added (R38). -/
def addPage (visited : BitVec 4) (page : Nat) : BitVec 4 := visited ||| BitVec.twoPow 4 (page - 1)

/-! ## Stations -/

/-- Station `i` of the part. -/
def State.station (s : State) (i : StationId) : Station := s.stations[i.val]

/-- The part with station `i` replaced. -/
def State.setStation (s : State) (i : StationId) (st : Station) : State :=
  { s with stations := s.stations.set i.val st }

end Sys2Proof.Machine
end

