-- ==== Sys2Proof/Machine/Fields.lean ====
section
/-! DEFINITION. Fields of an instance: where they lie, their effective attributes, the field under the
cursor, the tab ring, and changes of one or many field records (sections 2.2, 2.3, 3.3, 3.6). -/

namespace Sys2Proof.Machine

/-! ## One field -/

/-- The start position of a field definition (R3). -/
def startOf (d : FieldDef) : Nat := positionOf d.row d.column

/-- The start position of a field. -/
def FieldRec.start (f : FieldRec) : Nat := startOf f.defn

/-- Whether position `p` is one of the field's positions. -/
def FieldRec.covers (f : FieldRec) (p : Nat) : Bool :=
  decide (f.start ≤ p) && decide (p < f.start + f.defn.length)

/-- The effective kind (R33). -/
def FieldRec.kind (f : FieldRec) : FieldKind :=
  match f.override with
  | some o => o.kind
  | none => f.defn.kind

/-- The effective brightness (R33). -/
def FieldRec.bright (f : FieldRec) : Bool :=
  match f.override with
  | some o => o.bright
  | none => f.defn.bright

/-- An input field: its effective kind is INPUT (R33). -/
def FieldRec.isInput (f : FieldRec) : Bool := f.kind == .input

/-- The field's content is all blanks. -/
def FieldRec.isBlank (f : FieldRec) : Bool := f.content.all Machine.isBlank

/-- The field with a new content, padded or cut to its length (R32). -/
def FieldRec.fill (f : FieldRec) (t : List Byte) : FieldRec := { f with content := padCut f.defn.length t }

/-! ## The fields of an instance -/

/-- A field definition of the form is computed: FIXED and the target of a rule (R3). -/
def isComputedDef (d : FormDef) (f : FieldDef) : Bool :=
  f.kind == .fixed && d.rules.any fun r => r.target == f.number

/-- The field is a computed field of the instance (R88). -/
def FormInstance.isComputed (x : FormInstance) (f : FieldRec) : Bool := isComputedDef x.defn f.defn

/-- The field of number `n`, if the instance holds one. -/
def FormInstance.field? (x : FormInstance) (n : Nat) : Option FieldRec :=
  x.fields.find? fun f => f.defn.number == n

/-- The class a field is judged by: the copy of the class its definition names; none for class 0 (R72). -/
def FormInstance.classOf (x : FormInstance) (f : FieldRec) : Option ClassDef :=
  if f.defn.cls = 0 then none else lookupKey f.defn.cls x.classes

/-- The instance with the record of field `n` changed. -/
def FormInstance.modField (x : FormInstance) (n : Nat) (g : FieldRec → FieldRec) : FormInstance :=
  { x with fields := x.fields.map fun f => if f.defn.number = n then g f else f }

/-- The instance with the records of the fields that `which` chooses changed. -/
def FormInstance.modFields (x : FormInstance) (which : FieldRec → Bool) (g : FieldRec → FieldRec) :
    FormInstance :=
  { x with fields := x.fields.map fun f => if which f then g f else f }

/-- The instance with an error mark put on field `n` (R35). -/
def FormInstance.mark (x : FormInstance) (n : Nat) (m : Mark) : FormInstance :=
  x.modField n fun f => { f with mark := some m }

/-- The field under position `p` of the current page (R54). -/
def FormInstance.fieldAt (x : FormInstance) (p : Nat) : Option FieldRec :=
  x.fields.find? fun f => f.defn.page == x.page && f.covers p

/-- The input field under the cursor (R54). -/
def FormInstance.inputAtCursor (x : FormInstance) : Option FieldRec :=
  match x.fieldAt x.cursor with
  | some f => if f.isInput then some f else none
  | none => none

/-- The input fields of page `p` in screen order (R36, R43). -/
def FormInstance.inputsOn (x : FormInstance) (p : Nat) : List FieldRec :=
  (x.fields.filter fun f => f.defn.page == p && f.isInput).insertionSort fun a b => a.start ≤ b.start

/-- The tab ring: the input fields of the current page in screen order (section 3.6). -/
def FormInstance.ring (x : FormInstance) : List FieldRec := x.inputsOn x.page

/-- The start of the first field of a list, or position 0 (R36, R43, R61, R62). -/
def firstStart : List FieldRec → Nat
  | [] => 0
  | f :: _ => f.start

/-- The fields of the instance in (page, start) order (00_scope.md, Positions). -/
def FormInstance.byPlace (x : FormInstance) : List FieldRec :=
  x.fields.insertionSort fun a b =>
    a.defn.page < b.defn.page ∨ (a.defn.page = b.defn.page ∧ a.start ≤ b.start)

/-! ## Destinations of the cursor moves (R60 to R62) -/

/-- The destination of TAB from position `p` (R61). -/
def FormInstance.tabFrom (x : FormInstance) (p : Nat) : Nat :=
  match x.ring.find? fun f => decide (p < f.start) with
  | some f => f.start
  | none => firstStart x.ring

/-- The destination of BACKTAB from the cursor (R61). -/
def FormInstance.backtabTo (x : FormInstance) : Nat :=
  let previous :=
    match (x.ring.filter fun f => decide (f.start < x.cursor)).getLast? with
    | some f => f.start
    | none => firstStart x.ring.reverse
  match x.inputAtCursor with
  | some f => if f.start < x.cursor then f.start else previous
  | none => previous

/-- The destination of HOME (R62). -/
def FormInstance.homeTo (x : FormInstance) : Nat := firstStart x.ring

/-- The destination of NEWLINE (R62). -/
def FormInstance.newlineTo (x : FormInstance) : Nat :=
  match x.ring.find? fun f => decide (rowOf x.cursor < f.defn.row) with
  | some f => f.start
  | none => if x.ring.isEmpty then rowOf x.cursor % 23 * 80 else firstStart x.ring

/-- The destination of RIGHT (R60). -/
def rightOf (p : Nat) : Nat := (p + 1) % Config.positions
/-- The destination of LEFT (R60). -/
def leftOf (p : Nat) : Nat := (p + (Config.positions - 1)) % Config.positions
/-- The destination of DOWN (R60). -/
def downOf (p : Nat) : Nat := (p + 80) % Config.positions
/-- The destination of UP (R60). -/
def upOf (p : Nat) : Nat := (p + (Config.positions - 80)) % Config.positions

/-! ## Contents -/

/-- A character put over the one at the offset (R56). -/
def overtype (t : List Byte) (off : Nat) (c : Byte) : List Byte := t.set off c

/-- A character entered at the offset, the characters from it on moved right and the last one dropped
(R57). -/
def insertAt (t : List Byte) (off : Nat) (c : Byte) : List Byte := t.take off ++ c :: (t.drop off).dropLast

/-- The character at the offset removed, those after it moved left, a blank added at the end (R63). -/
def deleteAt (t : List Byte) (off : Nat) : List Byte := t.take off ++ (t.drop (off + 1) ++ [blank])

/-- Every position from the offset on blanked (R65). -/
def eraseFrom (t : List Byte) (off : Nat) : List Byte :=
  t.take off ++ List.replicate (t.length - off) blank

end Sys2Proof.Machine
end

