-- ==== Sys2Proof/Machine/Validation.lean ====
section
/-! DEFINITION. Validation (chapter 4): folding, the per-character test, the class, limit, mandatory-entry
and fill checks, the exit check, and the judgment of a field at a full send. -/

namespace Sys2Proof.Machine

/-- Letters A to Z and a to z. -/
def isLetter (c : Byte) : Bool :=
  (decide (0x41 ≤ c.toNat) && decide (c.toNat ≤ 0x5A)) || (decide (0x61 ≤ c.toNat) && decide (c.toNat ≤ 0x7A))

/-- A small letter changed to its capital (R73, R190). -/
def foldChar (c : Byte) : Byte :=
  if decide (0x61 ≤ c.toNat) && decide (c.toNat ≤ 0x7A) then c - 0x20#8 else c

/-- The character a CHAR item enters into a field of this class (R73). -/
def foldedFor (cls : Option ClassDef) (c : Byte) : Byte :=
  match cls with
  | some d => if d.fold then foldChar c else c
  | none => c

/-- How many "." a content holds. -/
def countPoints (t : List Byte) : Nat := t.countP (· == point)

/-- How many "." the content would hold with a "." placed at the offset. In insert mode every "." of the
content counts, also where R57's room test will then refuse (log 11). -/
def pointsAfter (insert : Bool) (t : List Byte) (off : Nat) : Nat :=
  if insert then countPoints t + 1 else countPoints (overtype t off point)

/-- The per-character test of R55 on the character `c` at the offset. -/
def admits (cls : Option ClassDef) (insert : Bool) (t : List Byte) (off : Nat) (c : Byte) : Bool :=
  match cls with
  | none => true
  | some d =>
    match d.kind with
    | .text => true
    | .alpha => isLetter c || isBlank c
    | .digits => isDigit c
    | .decimal =>
      isDigit c || (c == point && decide (1 ≤ d.places) && decide (pointsAfter insert t off ≤ 1)) ||
        (c == minus && d.signed)

/-- The numeric reading of a content by a class; `none` for TEXT and ALPHA (R75, R77). -/
def readBy (d : ClassDef) (t : List Byte) : Option Reading :=
  match d.kind with
  | .text | .alpha => none
  | .digits => some (numericReading 0 false t)
  | .decimal => some (numericReading d.places d.signed t)

/-- The class check: the mark of its failure, or none (R74). -/
def classCheck (d : ClassDef) (t : List Byte) : Option Mark :=
  match d.kind with
  | .text => none
  | .alpha => if t.all fun c => isLetter c || isBlank c then none else some .char
  | .digits | .decimal => if readBy d t = some .format then some .format else none

/-- The limit check (R78). -/
def limitCheck (d : ClassDef) (t : List Byte) : Option Mark :=
  match readBy d t with
  | some (.value v) =>
    if d.low.any fun l => decide (v < l) then some .rangeLow
    else if d.high.any fun h => decide (h < v) then some .rangeHigh
    else none
  | _ => none

/-- The mandatory-entry check (R80). -/
def entryCheck (d : ClassDef) (t : List Byte) : Option Mark :=
  if d.mandatoryEntry && t.all isBlank then some .mandatory else none

/-- The fill check (R81). -/
def fillCheck (d : ClassDef) (t : List Byte) : Option Mark :=
  if d.mandatoryFill && t.any isBlank && t.any (fun c => !isBlank c) then some .mandatory else none

/-- The exit check on a content: the class check, then the fill check (R59, R83). -/
def exitMark (cls : Option ClassDef) (t : List Byte) : Option Mark :=
  match cls with
  | none => none
  | some d => (classCheck d t).orElse fun _ => fillCheck d t

/-- The judgment of a content at a full send (R84). -/
def sendMark (cls : Option ClassDef) (t : List Byte) : Option Mark :=
  match cls with
  | none => none
  | some d =>
    if t.all isBlank then entryCheck d t
    else (classCheck d t).orElse fun _ => (limitCheck d t).orElse fun _ => fillCheck d t

/-- The keyboard reason that a mark brings (R86). -/
def markReason : Mark → Reason
  | .char => .char
  | .format => .format
  | .rangeLow => .range
  | .rangeHigh => .range
  | .mandatory => .mand

/-- The exit check on the field under the cursor when the departure is guarded: an input field, touched,
and a destination that is not one of its positions (R59). The failing field's number and its mark, or
none. -/
def FormInstance.departure (x : FormInstance) (inside : FieldRec → Bool) : Option (Nat × Mark) :=
  match x.inputAtCursor with
  | none => none
  | some f =>
    if f.touched && !inside f then (exitMark (x.classOf f) f.content).map fun m => (f.defn.number, m)
    else none

/-- The input fields that fail at a full send, in (page, start) order, each with its mark (R84, R119). -/
def FormInstance.failing (x : FormInstance) : List (FieldRec × Mark) :=
  x.byPlace.filterMap fun f =>
    if f.isInput then (sendMark (x.classOf f) f.content).map fun m => (f, m) else none

/-- The instance with every failing field marked (R84). -/
def FormInstance.markFailing (x : FormInstance) : FormInstance :=
  { x with
    fields := x.fields.map fun f =>
      if f.isInput then
        match sendMark (x.classOf f) f.content with
        | some m => { f with mark := some m }
        | none => f
      else f }

end Sys2Proof.Machine
end

