-- ==== Sys2Proof/Machine/Compute.lean ====
section
/-! DEFINITION. Computed fields (chapter 5): operands, running a rule, the downstream rules, and the
computation order and cycle test of the library (R5, R19). -/

namespace Sys2Proof.Machine

/-! ## The relation "feeds" (R19) -/

/-- Rule `a` feeds rule `b`: `a`'s target is one of `b`'s sources (R19). -/
def feeds (a b : Rule) : Bool := b.sources.contains a.target

/-- One step along "feeds" from a set of rule numbers, keeping the set. -/
def feedStep (rules : List Rule) (from_ : List Nat) : List Nat :=
  (rules.filter fun b =>
    from_.contains b.number || rules.any fun a => from_.contains a.number && feeds a b).map Rule.number

/-- Every rule reached by following "feeds" from a set of rule numbers, the set among them. A path needs no
more steps than there are rules. -/
def reached (rules : List Rule) : Nat → List Nat → List Nat
  | 0, from_ => from_
  | n + 1, from_ => reached rules n (feedStep rules from_)

/-- The downstream rules of changed fields (R99). -/
def downstream (rules : List Rule) (changed : List Nat) : List Nat :=
  reached rules rules.length
    ((rules.filter fun r => r.sources.any fun n => changed.contains n).map Rule.number)

/-- A rule lies on a cycle: it is reached from the rules it feeds (R19). -/
def onCycle (rules : List Rule) (r : Rule) : Bool := (downstream rules [r.target]).contains r.number

/-- The lowest-numbered rule not yet placed whose sources include no target of an unplaced rule (R5). -/
def nextRule (unplaced : List Rule) : Option Rule :=
  (unplaced.insertionSort fun a b => a.number ≤ b.number).find? fun r => unplaced.all fun u => !feeds u r

/-- The computation order, placing one rule at each step (R5). -/
def orderFrom : Nat → List Rule → List Nat
  | 0, _ => []
  | n + 1, unplaced =>
    match nextRule unplaced with
    | none => []
    | some r => r.number :: orderFrom n (unplaced.filter fun u => u.number != r.number)

/-- The computation order of a form's rules (R5). -/
def computationOrder (rules : List Rule) : List Nat := orderFrom rules.length rules

/-! ## Running rules (R89, R98 to R100) -/

/-- The operand of a source field, read by the kind the field has in the copied definition (R89). -/
def FormInstance.operand (x : FormInstance) (n : Nat) : Operand :=
  match x.field? n with
  | none => .undefined
  | some f =>
    match f.defn.kind with
    | .input =>
      match (x.classOf f).map fun d => (readBy d f.content, if d.kind = .decimal then d.places else 0) with
      | some (some .blank, _) => .blank
      | some (some (.value v), p) => .value v p
      | _ => .undefined
    | .fixed =>
      match f.result, x.defn.rules.find? fun r => r.target == n with
      | some (.value v), some r => .value v r.places
      | some .blank, _ => .blank
      | some .overflow, _ => .overflow
      | _, _ => .undefined

/-- Runs one rule: the result and the content of its target are set together (R88). -/
def FormInstance.runRule (x : FormInstance) (r : Rule) : FormInstance :=
  x.modField r.target fun f =>
    let c := ruleResult r (r.sources.map x.operand) f.defn.length
    { f with result := some c.1, content := c.2 }

/-- Runs the rules of the given numbers, in the order of the list. -/
def FormInstance.runRules (x : FormInstance) : List Nat → FormInstance
  | [] => x
  | n :: ns =>
    match x.defn.rules.find? fun r => r.number == n with
    | some r => (x.runRule r).runRules ns
    | none => x.runRules ns

/-- Recomputation after a change of the fields numbered `changed`: their downstream rules, in the
computation order (R98, R99). -/
def FormInstance.recompute (x : FormInstance) (changed : List Nat) : FormInstance :=
  x.runRules (x.order.filter fun n => (downstream x.defn.rules changed).contains n)

/-- Every rule of the form, in the computation order (R36, R125). -/
def FormInstance.recomputeAll (x : FormInstance) : FormInstance := x.runRules x.order

/-! ## Building an instance (R36) -/

/-- A field record as SHOW builds it, before the rules are run (R36). -/
def freshField (d : FormDef) (f : FieldDef) : FieldRec where
  defn := f
  content := padCut f.length f.default
  override := none
  touched := false
  mark := none
  result := if isComputedDef d f then some .blank else none

/-- The classes that a field of the form names, copied from the class table (R8). -/
def copiedClasses (d : FormDef) (classes : Table ClassDef) : Table ClassDef :=
  classes.filter fun c => d.fields.any fun f => f.cls == c.1

/-- The instance SHOW builds from a form of the library, with the cursor at position 0, settling as given
and no rule run yet (R36). -/
def bareInstance (number generation : Nat) (a : ActiveForm) (classes : Table ClassDef) (settling : Bool) :
    FormInstance where
  number := number
  generation := generation
  defn := a.defn
  order := a.order
  classes := copiedClasses a.defn classes
  fields := a.defn.fields.map (freshField a.defn)
  page := 1
  visited := addPage 0#4 1
  settling := settling
  cursor := 0
  insert := false

/-- Where SHOW places the cursor: the start of the initial-cursor field; without one the start of the first
input field of page 1, or position 0 (R36). -/
def FormInstance.initialCursor (x : FormInstance) : Nat :=
  match x.defn.initial.bind x.field? with
  | some f => f.start
  | none => firstStart (x.inputsOn 1)

/-- The instance that SHOW builds (R36). -/
def newInstance (number generation : Nat) (a : ActiveForm) (classes : Table ClassDef) (settling : Bool) :
    FormInstance :=
  let x := (bareInstance number generation a classes settling).recomputeAll
  { x with cursor := x.initialCursor }

end Sys2Proof.Machine
end

