-- ==== Sys2Proof/Machine/Library.lean ====
section
/-! DEFINITION. The Form Library (chapter 1): staging, the merged view and its validation, commit, and
locks. -/

namespace Sys2Proof.Machine

/-! ## Staging (R9 to R13) -/

/-- The number of staged entries (R9). -/
def Library.staged (l : Library) : Nat := l.stagedForms.length + l.stagedClasses.length + l.stagedRoutes.length

/-- The staging state is FILLING (R9). -/
def Library.filling (l : Library) : Bool := l.staged != 0

/-- The bit of a table kind in the lock set (R194). -/
def lockBit : TableKind → Nat
  | .form => 0
  | .cls => 1
  | .route => 2

/-- A table kind is locked (R24). -/
def Library.locked (l : Library) (k : TableKind) : Bool := l.locks.getLsbD (lockBit k)

/-- The table kind a STAGE loads (R192). -/
def loadKind : StageLoad → TableKind
  | .forms _ => .form
  | .classes _ => .cls
  | .routes _ => .route

/-- Entries put into a staged table in payload order (R11 step 3). -/
def stageInto {α : Type} (t : Table (Option α)) (es : List (Nat × Option α)) : Table (Option α) :=
  es.foldl (fun t e => putKey e.1 e.2 t) t

/-- The library with the entries of a STAGE applied to the staging area (R11 step 3). -/
def Library.stageEntries (l : Library) : StageLoad → Library
  | .forms es => { l with stagedForms := stageInto l.stagedForms es }
  | .classes es => { l with stagedClasses := stageInto l.stagedClasses es }
  | .routes es => { l with stagedRoutes := stageInto l.stagedRoutes es }

/-- STAGE at the library; `payload` is the whole payload, whose bytes the running sum counts (R11, R12). -/
def Library.stage (l : Library) (load : StageLoad) (payload : List Byte) : Library × Response :=
  if l.locked (loadKind load) then (l, .refuse 0x01#8 (.code .locked))
  else if (l.stageEntries load).staged > Config.stagingCapacity then (l, .refuse 0x01#8 (.code .full))
  else ({ l.stageEntries load with sum := l.sum + byteSum payload },
    .accept (.stage (l.stageEntries load).staged))

/-- The staging area emptied, the running sum 0 (R13, R22, R25). -/
def Library.emptyStaging (l : Library) : Library :=
  { l with stagedForms := [], stagedClasses := [], stagedRoutes := [], sum := 0#16 }

/-- DISCARD (R13). -/
def Library.discard (l : Library) : Library × Response := (l.emptyStaging, .accept (.discard l.staged))

/-- LOCK (R24). -/
def Library.lock (l : Library) (kinds : BitVec 3) : Library × Response :=
  ({ l with locks := l.locks ||| kinds }, .accept (.lock (l.locks ||| kinds)))

/-! ## The merged view (R15) -/

/-- Three complete tables, as COMMIT examines them (R15). -/
structure View where
  forms : Table FormDef
  classes : Table ClassDef
  routes : Table RouteDef
  deriving DecidableEq, Repr

/-- The active tables as a view. -/
def Library.view (l : Library) : View where
  forms := l.forms.map fun e => (e.1, e.2.defn)
  classes := l.classes
  routes := l.routes

/-- The merged view (R15). -/
def Library.merged (l : Library) : View where
  forms := l.stagedForms.foldl applyStaged l.view.forms
  classes := l.stagedClasses.foldl applyStaged l.classes
  routes := l.stagedRoutes.foldl applyStaged l.routes

/-! ## Validation (R16 to R20) -/

/-- The first of a list of checks that fails gives its cause. -/
def firstFailing : List (Bool × Cause) → Option Cause
  | [] => none
  | (bad, c) :: rest => if bad then some c else firstFailing rest

/-- What rejects a validation class (R17). -/
def classBad (c : ClassDef) : Bool :=
  (c.places != 0 && c.kind != .decimal) || (c.signed && c.kind != .decimal) ||
    ((c.low.isSome || c.high.isSome) && (c.kind == .text || c.kind == .alpha)) ||
    ((c.low.any (· < 0) || c.high.any (· < 0)) && !(c.kind == .decimal && c.signed)) ||
    (match c.low, c.high with | some lo, some hi => decide (hi < lo) | _, _ => false) ||
    (c.fold && (c.kind == .digits || c.kind == .decimal))

/-- The numbers that stand more than once in a list, each once, in ascending order. -/
def duplicated (ns : List Nat) : List Nat :=
  ((ns.filter fun n => decide (1 < ns.count n)).dedup).insertionSort (· ≤ ·)

/-- The duplicated number a DUPFIELD or DUPRULE names: the only one, or one of several by a free choice
(R18, log 9). -/
def duplicateItem (ns : List Nat) : Option Nat :=
  match duplicated ns with
  | [] => none
  | [n] => some n
  | n :: m :: rest => some ((n :: m :: rest).getD (Config.duplicateChoice ns % (rest.length + 2)) n)

/-- The initial cursor names no field of the form, or one that is not INPUT or not on page 1 (R18). -/
def initialBad (d : FormDef) : Option Nat :=
  match d.initial with
  | none => none
  | some n => if d.fields.any fun f => f.number == n && f.kind == .input && f.page == 1 then none else some n

/-- Two field definitions share a position: the same page and row, and columns in common (R3, log 10). -/
def overlap (f g : FieldDef) : Bool :=
  f.page == g.page && f.row == g.row && decide (f.column < g.column + g.length) &&
    decide (g.column < f.column + f.length)

/-- The class a field definition names is missing from the class table (R18). -/
def classMissing (classes : Table ClassDef) (f : FieldDef) : Bool :=
  f.cls != 0 && (lookupKey f.cls classes).isNone

/-- The class a field definition names, if it names one that exists. -/
def defClass (classes : Table ClassDef) (f : FieldDef) : Option ClassDef :=
  if f.cls = 0 then none else lookupKey f.cls classes

/-- A class of kind DIGITS or DECIMAL. -/
def isNumeric (c : ClassDef) : Bool := c.kind == .digits || c.kind == .decimal

/-- The checks of one field, in the order of R18's table. -/
def fieldCause (classes : Table ClassDef) (d : FormDef) (f : FieldDef) : Option Cause :=
  firstFailing
    [(decide (d.pages < f.page), .page), (decide (80 < f.column + f.length - 1), .place),
      (d.fields.any fun g => g.number != f.number && overlap f g, .overlap),
      ((f.kind == .input && f.hidden) || (f.kind == .fixed && f.skip), .attr),
      (classMissing classes f, .cls),
      ((defClass classes f).any isNumeric && decide (15 < f.length), .width),
      (decide (f.length < f.default.length), .default)]

/-- A source names no field of the form, or a field that is neither a numeric INPUT field nor the target of
a rule (R19). -/
def sourceBad (classes : Table ClassDef) (d : FormDef) (n : Nat) : Bool :=
  match d.fields.find? fun f => f.number == n with
  | none => true
  | some f =>
    !((f.kind == .input && (defClass classes f).any isNumeric) || d.rules.any fun r => r.target == n)

/-- The checks of one rule, in the order of R19's table but for the cycle check. -/
def ruleCause (classes : Table ClassDef) (d : FormDef) (r : Rule) : Option Cause :=
  firstFailing
    [(r.sources.any (sourceBad classes d), .source),
      (!(d.fields.any fun f => f.number == r.target && f.kind == .fixed), .target),
      (d.rules.any fun q => decide (q.number < r.number) && q.target == r.target, .dupTarget)]

/-- The lowest rule number on any cycle (R19). -/
def cycleItem (rules : List Rule) : Option Nat :=
  (((rules.filter (onCycle rules)).map Rule.number).insertionSort (· ≤ ·)).head?

/-- The first field, in ascending field number, that fails a check, with its cause (R18). -/
def fieldOffence (classes : Table ClassDef) (d : FormDef) : Option (Cause × Nat) :=
  (d.fields.insertionSort fun a b => a.number ≤ b.number).findSome? fun f =>
    (fieldCause classes d f).map fun c => (c, f.number)

/-- The first rule, in ascending rule number, that fails a check, with its cause (R19). -/
def ruleOffence (classes : Table ClassDef) (d : FormDef) : Option (Cause × Nat) :=
  (d.rules.insertionSort fun a b => a.number ≤ b.number).findSome? fun r =>
    (ruleCause classes d r).map fun c => (c, r.number)

/-- The form-level checks (R18, the first three rows). -/
def formLevelOffence (d : FormDef) : Option (Cause × Nat) :=
  match duplicateItem (d.fields.map FieldDef.number) with
  | some n => some (.dupField, n)
  | none =>
    match duplicateItem (d.rules.map Rule.number) with
    | some n => some (.dupRule, n)
    | none => (initialBad d).map fun n => (.initial, n)

/-- The first offence within one form: form-level checks, fields, rules, the cycle check (R16, R18, R19). -/
def formOffence (classes : Table ClassDef) (d : FormDef) : Option (Cause × Nat) :=
  (formLevelOffence d).orElse fun _ => (fieldOffence classes d).orElse fun _ =>
    (ruleOffence classes d).orElse fun _ => (cycleItem d.rules).map fun n => (.cycle, n)

/-- What rejects a scan route (R20). -/
def routeCause (forms : Table FormDef) (r : RouteDef) : Option Cause :=
  match r.form with
  | none => none
  | some n =>
    match lookupKey n forms with
    | none => some .formRef
    | some d => if r.target != 0 && !(d.fields.any fun f => f.number == r.target) then some .routeField else none

/-- The first offence of the class table (R16, R17). -/
def View.classOffence (v : View) : Option Offence :=
  v.classes.findSome? fun e => if classBad e.2 then some ⟨.cls, e.1, .classDef, 0⟩ else none

/-- The first offence of the form table (R16, R18, R19). -/
def View.formOffence (v : View) : Option Offence :=
  v.forms.findSome? fun e => (Machine.formOffence v.classes e.2).map fun c => ⟨.form, e.1, c.1, c.2⟩

/-- The first offence of the route table (R16, R20). -/
def View.routeOffence (v : View) : Option Offence :=
  v.routes.findSome? fun e => (routeCause v.forms e.2).map fun c => ⟨.route, e.1, c, 0⟩

/-- The first offence of a view, in the fixed order of R16. -/
def View.offence (v : View) : Option Offence :=
  v.classOffence.orElse fun _ => v.formOffence.orElse fun _ => v.routeOffence

/-- The field definitions of all forms of a view (R21). -/
def View.fieldTotal (v : View) : Nat := (v.forms.map fun e => e.2.fields.length).sum

/-! ## COMMIT (R14, R22, R23) -/

/-- The generation after a successful commit (R23). -/
def nextGeneration (g : Nat) : Nat := if Config.counterTop ≤ g then 1 else g + 1

/-- The library with a view as its active tables, each form with its computation order, one generation on,
and staging emptied (R22). -/
def Library.install (l : Library) (v : View) : Library :=
  { l.emptyStaging with
    forms := v.forms.map fun e => (e.1, ⟨e.2, computationOrder e.2.rules⟩)
    classes := v.classes
    routes := v.routes
    generation := nextGeneration l.generation }

/-- A staged entry is of a locked kind (R14 step 3). -/
def Library.stagedLocked (l : Library) : Bool :=
  (!l.stagedForms.isEmpty && l.locked .form) || (!l.stagedClasses.isEmpty && l.locked .cls) ||
    (!l.stagedRoutes.isEmpty && l.locked .route)

/-- Why a COMMIT is refused, by the first step of R14 that fails, or none. -/
def Library.commitRefusal (l : Library) (check : Half) : Option RefuseReason :=
  if !l.filling then some (.code .noStage)
  else if l.sum + check != 0#16 then some (.code .check)
  else if l.stagedLocked then some (.code .locked)
  else
    match l.merged.offence with
    | some o => some (.invalid o)
    | none =>
      if Config.fieldCapacity < l.merged.fieldTotal then some (.capacity l.merged.fieldTotal) else none

/-- What the ACCEPT of a COMMIT carries (R22). -/
def Library.commitBody (l : Library) : AcceptBody :=
  .commit l.generation l.forms.length l.classes.length l.routes.length

/-- COMMIT (R14, R22). -/
def Library.commit (l : Library) (check : Half) : Library × Response :=
  match l.commitRefusal check with
  | some r => (l, .refuse 0x03#8 r)
  | none => (l.install l.merged, .accept (l.install l.merged).commitBody)

end Sys2Proof.Machine
end

