-- ==== Sys2Proof/Machine/Ranges.lean ====
section
/-! DEFINITION. The ranges in which every number, count and text of a request must lie for its payload to
decode (R10, R173 step 2, R190, R192 to R194). A request outside them is answered REFUSE FORMAT. Relations
between quantities are not examined here but at COMMIT (R10) or LENGTH (R173 step 4). -/

namespace Sys2Proof.Machine

/-- `lo ≤ n ≤ hi`. -/
def inRange (lo hi n : Nat) : Bool := decide (lo ≤ n) && decide (n ≤ hi)

/-- A printable character, 0x20 to 0x7E (R190). -/
def printable (c : Byte) : Bool := inRange 0x20 0x7E c.toNat

/-- A text whose length lies in `lo` to `hi` and whose characters are printable (R190). -/
def textValid (lo hi : Nat) (t : List Byte) : Bool := inRange lo hi t.length && t.all printable

/-- The ranges of R3. -/
def fieldValid (f : FieldDef) : Bool :=
  inRange 1 Config.fieldsPerForm f.number && inRange 1 Config.pages f.page && inRange 1 23 f.row &&
    inRange 1 80 f.column && inRange 1 79 f.length && inRange 0 Config.classes f.cls &&
    textValid 0 79 f.default

/-- How many sources a rule names: two for PRODUCT, PERCENT and DIFFERENCE, 1 to 24 for SUM (R4, R10). -/
def sourceCountValid (op : RuleOp) (n : Nat) : Bool :=
  match op with
  | .sum => inRange 1 24 n
  | .product | .percent | .difference => n == 2

/-- The ranges of R4. -/
def ruleValid (r : Rule) : Bool :=
  inRange 1 Config.rulesPerForm r.number && sourceCountValid r.op r.sources.length &&
    r.sources.all (inRange 1 Config.fieldsPerForm) && inRange 1 Config.fieldsPerForm r.target &&
    inRange 0 4 r.places

/-- The ranges of R2. -/
def formValid (d : FormDef) : Bool :=
  inRange 1 Config.pages d.pages && d.initial.all (inRange 1 Config.fieldsPerForm) &&
    inRange 1 Config.fieldsPerForm d.fields.length && d.fields.all fieldValid &&
    inRange 0 Config.rulesPerForm d.rules.length && d.rules.all ruleValid

/-- The range of a limit (R6). -/
def limitValid (v : Int) : Bool := decide (-Config.limitBound ≤ v) && decide (v ≤ Config.limitBound)

/-- The ranges of R6. -/
def classValid (c : ClassDef) : Bool :=
  inRange 0 4 c.places && c.low.all limitValid && c.high.all limitValid

/-- The ranges of R7; mask bits beyond the pattern's length are 0 (R192). -/
def routeValid (r : RouteDef) : Bool :=
  r.form.all (inRange 1 Config.forms) && textValid 1 8 r.pattern &&
    decide (r.mask.toNat < 2 ^ r.pattern.length) && inRange 0 48 r.length && inRange 0 8 r.strip &&
    inRange 0 Config.fieldsPerForm r.target

/-- Staged entries with keys in `1` to `top` and valid records. -/
def entriesValid {α : Type} (top : Nat) (valid : α → Bool) (es : List (Nat × Option α)) : Bool :=
  inRange 1 255 es.length && es.all fun e => inRange 1 top e.1 && e.2.all valid

/-- When a STAGE decodes (R10). -/
def loadValid : StageLoad → Bool
  | .forms es => entriesValid Config.forms formValid es
  | .classes es => entriesValid Config.classes classValid es
  | .routes es => entriesValid Config.routes routeValid es

/-- The ranges of one WRITE update (R193). -/
def updateValid (u : Update) : Bool :=
  inRange 1 Config.fieldsPerForm u.field && textValid 0 255 u.text

/-- The ranges of a WRITE (R193). -/
def writeValid (w : WriteOrder) : Bool :=
  w.page.all (inRange 1 255) &&
    w.cursor.all (fun c => inRange 1 Config.fieldsPerForm c.1 && inRange 0 255 c.2) &&
    inRange 0 255 w.updates.length && w.updates.all updateValid

/-- When the payload of a request lies in its ranges (R173 step 2). -/
def requestValid : Request → Bool
  | .stage load => loadValid load
  | .discard => true
  | .commit _ => true
  | .lock _ => true
  | .showForm _ form _ => inRange 1 Config.forms form
  | .write _ order => writeValid order
  | .notice _ _ text => textValid 0 255 text
  | .hold _ => true
  | .release _ => true
  | .page _ page => inRange 1 255 page
  | .reread _ => true
  | .stationSet _ change => change.timeout.all (inRange 0 255)
  | .stationReset _ => true
  | .suspend _ => true
  | .resume _ => true
  | .pollScan _ => true
  | .pollNext _ => true
  | .status => true
  | .stationStatus _ => true
  | .identify => true
  | .enableEvents _ => true
  | .clearEvents _ _ => true
  | .partReset => true

end Sys2Proof.Machine
end

