-- ==== Sys2Proof/Machine/Operands.lean ====
section
/-! DEFINITION. Decoding the operands of what arrives: request payloads against the layouts of section 11.3
(R173 steps 1 and 2, R190 to R194), and upstream messages against those of section 11.7 (R155, R199). A
parser takes bytes and answers what it read with the bytes left over. -/

namespace Sys2Proof.Machine

/-! ## Forms of encoding (R190) -/

/-- A text: a length byte, then that many characters. -/
def parseText : List Byte → Option (List Byte × List Byte)
  | [] => none
  | n :: bs => if n.toNat ≤ bs.length then some (bs.take n.toNat, bs.drop n.toNat) else none

/-- `n` members one after another. -/
def parseMany {α : Type} (p : List Byte → Option (α × List Byte)) :
    Nat → List Byte → Option (List α × List Byte)
  | 0, bs => some ([], bs)
  | n + 1, bs =>
    match p bs with
    | none => none
    | some (a, bs') =>
      match parseMany p n bs' with
      | none => none
      | some (as, rest) => some (a :: as, rest)

/-- A list: a count byte, then its members. -/
def parseList {α : Type} (p : List Byte → Option (α × List Byte)) : List Byte → Option (List α × List Byte)
  | [] => none
  | n :: bs => parseMany p n.toNat bs

/-- One byte as a number. -/
def parseNumber : List Byte → Option (Nat × List Byte)
  | [] => none
  | b :: bs => some (b.toNat, bs)

/-- A flags or set byte of which only the low `k` bits are named. -/
def onlyBits (k : Nat) (b : Byte) : Bool := decide (b.toNat < 2 ^ k)

/-- A number that is there when its bit is set, and 0 when it is clear (R193). -/
def numberIf (present : Bool) (b : Byte) : Option (Option Nat) :=
  if present then some (some b.toNat) else if b = 0#8 then some none else none

/-- The limit of eight bytes (R190). -/
def limitOf (a b c d e f g h : Byte) : Int := (a ++ b ++ c ++ d ++ e ++ f ++ g ++ h).toInt

/-- A limit that is there when its bit is set, and 0 when it is clear (R192). -/
def limitIf (present : Bool) (v : Int) : Option (Option Int) :=
  if present then some (some v) else if v = 0 then some none else none

/-- A number of which 0 means absent. -/
def zeroAbsent (b : Byte) : Option Nat := if b = 0#8 then none else some b.toNat

/-! ## STAGE (R192) -/

/-- A field definition. -/
def parseField : List Byte → Option (FieldDef × List Byte)
  | number :: page :: row :: column :: length :: flags :: cls :: bs =>
    if onlyBits 4 flags then
      match parseText bs with
      | none => none
      | some (t, rest) =>
        some ({ number := number.toNat, page := page.toNat, row := row.toNat, column := column.toNat,
                length := length.toNat, kind := if flags.getLsbD 0 then .fixed else .input,
                skip := flags.getLsbD 1, bright := flags.getLsbD 2, hidden := flags.getLsbD 3,
                cls := cls.toNat, default := t }, rest)
    else none
  | _ => none

/-- An operation code. -/
def parseOp (b : Byte) : Option RuleOp :=
  if b = 1#8 then some .product
  else if b = 2#8 then some .percent
  else if b = 3#8 then some .sum
  else if b = 4#8 then some .difference
  else none

/-- The target, result places and flags that end a rule of the given number, operation and sources. -/
def parseRuleEnd (number : Nat) (op : RuleOp) (sources : List Nat) : List Byte → Option (Rule × List Byte)
  | target :: places :: flags :: bs =>
    if onlyBits 2 flags then
      some ({ number := number, op := op, sources := sources, target := target.toNat, places := places.toNat,
              signed := flags.getLsbD 0, report := flags.getLsbD 1 }, bs)
    else none
  | _ => none

/-- A computation rule. -/
def parseRule : List Byte → Option (Rule × List Byte)
  | number :: op :: bs =>
    match parseOp op, parseList parseNumber bs with
    | some o, some (sources, rest) => parseRuleEnd number.toNat o sources rest
    | _, _ => none
  | _ => none

/-- A form record. -/
def parseForm : List Byte → Option (FormDef × List Byte)
  | pages :: flags :: keysHigh :: keysLow :: initial :: bs =>
    if onlyBits 1 flags && onlyBits 4 keysHigh then
      match parseList parseField bs with
      | none => none
      | some (fields, bs') =>
        match parseList parseRule bs' with
        | none => none
        | some (rules, rest) =>
          some ({ pages := pages.toNat, cycle := flags.getLsbD 0,
                  shortKeys := (halfOf keysHigh keysLow).setWidth 12, initial := zeroAbsent initial,
                  fields := fields, rules := rules }, rest)
    else none
  | _ => none

/-- The kind code of a class. -/
def parseClassKind (b : Byte) : Option ClassKind :=
  if b = 1#8 then some .text
  else if b = 2#8 then some .alpha
  else if b = 3#8 then some .digits
  else if b = 4#8 then some .decimal
  else none

/-- A class record. -/
def parseClass : List Byte → Option (ClassDef × List Byte)
  | kind :: places :: flags :: a :: b :: c :: d :: e :: f :: g :: h ::
      a' :: b' :: c' :: d' :: e' :: f' :: g' :: h' :: bs =>
    match parseClassKind kind, limitIf (flags.getLsbD 4) (limitOf a b c d e f g h),
        limitIf (flags.getLsbD 5) (limitOf a' b' c' d' e' f' g' h') with
    | some k, some low, some high =>
      if onlyBits 6 flags then
        some ({ kind := k, places := places.toNat, signed := flags.getLsbD 0,
                mandatoryEntry := flags.getLsbD 1, mandatoryFill := flags.getLsbD 2,
                fold := flags.getLsbD 3, low := low, high := high }, bs)
      else none
    | _, _, _ => none
  | _ => none

/-- A route record. -/
def parseRoute : List Byte → Option (RouteDef × List Byte)
  | form :: bs =>
    match parseText bs with
    | some (pattern, mask :: length :: strip :: target :: rest) =>
      some ({ form := zeroAbsent form, pattern := pattern, mask := mask, length := length.toNat,
              strip := strip.toNat, target := target.toNat }, rest)
    | _ => none
  | _ => none

/-- A staged entry: its key number, its type, and its record. -/
def parseStaged {α : Type} (p : List Byte → Option (α × List Byte)) :
    List Byte → Option ((Nat × Option α) × List Byte)
  | key :: type :: bs =>
    if type = 0#8 then some ((key.toNat, none), bs)
    else if type = 1#8 then
      match p bs with
      | none => none
      | some (r, rest) => some ((key.toNat, some r), rest)
    else none
  | _ => none

/-- What is read when nothing is left over. -/
def whole {α : Type} : Option (α × List Byte) → Option α
  | some (a, []) => some a
  | _ => none

/-- A STAGE payload. -/
def parseLoad : List Byte → Option StageLoad
  | kind :: bs =>
    if kind = 1#8 then (whole (parseList (parseStaged parseForm) bs)).map .forms
    else if kind = 2#8 then (whole (parseList (parseStaged parseClass) bs)).map .classes
    else if kind = 3#8 then (whole (parseList (parseStaged parseRoute) bs)).map .routes
    else none
  | [] => none

/-! ## The station orders (R193) -/

/-- A tone code that may be 0 for none. -/
def parseTone (b : Byte) : Option (Option Tone) :=
  if b = 0#8 then some none
  else if b = 1#8 then some (some .short)
  else if b = 2#8 then some (some .long)
  else none

/-- An override code. -/
def parseOverride (b : Byte) : Option (Option Override) :=
  if b = 0#8 then some none
  else if b = 1#8 then some (some ⟨.input, false⟩)
  else if b = 2#8 then some (some ⟨.input, true⟩)
  else if b = 3#8 then some (some ⟨.fixed, false⟩)
  else if b = 4#8 then some (some ⟨.fixed, true⟩)
  else none

/-- One WRITE update. -/
def parseUpdate : List Byte → Option (Update × List Byte)
  | field :: code :: bs =>
    match parseOverride code, parseText bs with
    | some o, some (t, rest) => some ({ field := field.toNat, override := o, text := t }, rest)
    | _, _ => none
  | _ => none

/-- The CURSOR option's field and offset, both 0 when the option is absent. -/
def cursorIf (present : Bool) (field offset : Byte) : Option (Option (Nat × Nat)) :=
  if present then some (some (field.toNat, offset.toNat))
  else if field = 0#8 ∧ offset = 0#8 then some none else none

/-- The tone of a WRITE: short or long with the TONE option, 0 without. -/
def toneIf (present : Bool) (b : Byte) : Option (Option Tone) :=
  match parseTone b with
  | some t => if t.isSome = present then some t else none
  | none => none

/-- A WRITE payload after its station set. -/
def parseWrite : List Byte → Option WriteOrder
  | options :: page :: field :: offset :: tone :: bs =>
    match numberIf (options.getLsbD 3) page, cursorIf (options.getLsbD 4) field offset,
        toneIf (options.getLsbD 6) tone, whole (parseList parseUpdate bs) with
    | some p, some c, some t, some us =>
      if onlyBits 7 options then
        some { eraseInput := options.getLsbD 0, clearMarks := options.getLsbD 1,
               resetTouched := options.getLsbD 2, page := p, cursor := c, restore := options.getLsbD 5,
               tone := t, updates := us }
      else none
    | _, _, _, _ => none
  | _ => none

/-- A byte 0 or 1. -/
def parseBool (b : Byte) : Option Bool :=
  if b = 0#8 then some false else if b = 1#8 then some true else none

/-- A conflict policy. -/
def parsePolicy (b : Byte) : Option Policy :=
  if b = 0#8 then some .keep else if b = 1#8 then some .override else none

/-- A scan fallback. -/
def parseFallback (b : Byte) : Option Fallback :=
  if b = 0#8 then some .reject else if b = 1#8 then some .wedge else none

/-- A setting's value when it is carried; the byte of a setting not carried is not examined (R193). -/
def carriedIf {α : Type} (carried : Bool) (value : Option α) : Option (Option α) :=
  if carried then value.map some else some none

/-- A STATION SET payload after its station set. -/
def parseSettings : List Byte → Option SettingsChange
  | [carried, a, b, c, d, e, f] =>
    match carriedIf (carried.getLsbD 0) (parseBool a), carriedIf (carried.getLsbD 2) (parsePolicy c),
        carriedIf (carried.getLsbD 3) (parseFallback d), carriedIf (carried.getLsbD 4) (parseBool e),
        carriedIf (carried.getLsbD 5) (parseBool f) with
    | some typeahead, some policy, some fallback, some scanner, some tone =>
      if onlyBits 6 carried then
        some { typeahead := typeahead, timeout := if carried.getLsbD 1 then some b.toNat else none,
               policy := policy, fallback := fallback, scanner := scanner, tone := tone }
      else none
    | _, _, _, _, _ => none
  | _ => none

/-! ## Requests (R173, R191, R194) -/

/-- A payload that is a station set alone. -/
def parseSet (f : StationSet → Request) : List Byte → Option Request
  | [set] => some (f set)
  | _ => none

/-- A SHOW payload. -/
def parseShow : List Byte → Option Request
  | [set, form, hold] => (parseBool hold).map fun h => .showForm set form.toNat h
  | _ => none

/-- A NOTICE payload. -/
def parseNotice : List Byte → Option Request
  | set :: tone :: bs =>
    match parseTone tone, whole (parseText bs) with
    | some t, some text => some (.notice set t text)
    | _, _ => none
  | _ => none

/-- A POLL payload: mode code 1 SCAN or 2 NEXT. -/
def parsePoll : List Byte → Option Request
  | [set, mode] =>
    if mode = 1#8 then some (.pollScan set) else if mode = 2#8 then some (.pollNext set) else none
  | _ => none

/-- A STATUS payload: a station number, or 0xFF for part-wide. -/
def parseStatus : List Byte → Option Request
  | [scope] =>
    if h : scope.toNat < 8 then some (.stationStatus ⟨scope.toNat, h⟩)
    else if scope = 0xFF#8 then some .status else none
  | _ => none

/-- An ENABLE EVENTS payload: bits 11 to 15 are 0. -/
def parseEnables : List Byte → Option Request
  | [hi, lo] => if onlyBits 3 hi then some (.enableEvents ((halfOf hi lo).setWidth 11)) else none
  | _ => none

/-- A CLEAR EVENTS payload. -/
def parseClear : List Byte → Option Request
  | [part, a, b, c, d, e, f, g, h] =>
    if onlyBits 3 part then some (.clearEvents (part.setWidth 3) #v[a, b, c, d, e, f, g, h]) else none
  | _ => none

/-- A payload of no bytes. -/
def parseNothing (r : Request) : List Byte → Option Request
  | [] => some r
  | _ :: _ => none

/-- The layout of a request payload by its kind code; none for an unknown kind or a payload that does not
fit its layout. Ranges are examined in `decodeRequest`. -/
def parsePayload (kind : Byte) (payload : List Byte) : Option Request :=
  match kind.toNat with
  | 0x01 => (parseLoad payload).map .stage
  | 0x02 => parseNothing .discard payload
  | 0x03 => match payload with | [hi, lo] => some (.commit (halfOf hi lo)) | _ => none
  | 0x04 => match payload with | [k] => if onlyBits 3 k then some (.lock (k.setWidth 3)) else none | _ => none
  | 0x10 => parseShow payload
  | 0x11 => match payload with | set :: bs => (parseWrite bs).map (.write set) | [] => none
  | 0x12 => parseNotice payload
  | 0x13 => parseSet .hold payload
  | 0x14 => parseSet .release payload
  | 0x15 => match payload with | [set, page] => some (.page set page.toNat) | _ => none
  | 0x16 => parseSet .reread payload
  | 0x17 => match payload with | set :: bs => (parseSettings bs).map (.stationSet set) | [] => none
  | 0x18 => parseSet .stationReset payload
  | 0x19 => parseSet .suspend payload
  | 0x1A => parseSet .resume payload
  | 0x20 => parsePoll payload
  | 0x21 => parseStatus payload
  | 0x22 => parseEnables payload
  | 0x23 => parseClear payload
  | 0x24 => parseNothing .identify payload
  | 0x25 => parseNothing .partReset payload
  | _ => none

/-- The request that a frame's kind and payload decode to, or none (R173 steps 1 and 2). -/
def decodeRequest (kind : Byte) (payload : List Byte) : Option Request :=
  (parsePayload kind payload).filter requestValid

/-! ## Upstream messages (R155, R199) -/

/-- An upstream message as it decodes (R155). -/
inductive Upstream where
  | key (it : Item)
  | scan (good : Bool) (text : List Byte)
  | attn
  | alive
  deriving DecidableEq, Repr

/-- The item of a key code, if the code is one (R199). -/
def keyItem (code : Byte) : Option Item :=
  if printable code then some (.char code)
  else
    match code.toNat with
    | 0x80 => some (.edit .insert)
    | 0x81 => some (.edit .delete)
    | 0x82 => some (.edit .backspace)
    | 0x83 => some (.edit .eraseField)
    | 0x84 => some (.edit .eraseInput)
    | 0x90 => some (.move .tab)
    | 0x91 => some (.move .backtab)
    | 0x92 => some (.move .up)
    | 0x93 => some (.move .down)
    | 0x94 => some (.move .left)
    | 0x95 => some (.move .right)
    | 0x96 => some (.move .home)
    | 0x97 => some (.move .newline)
    | 0x98 => some (.move .pageNext)
    | 0x99 => some (.move .pagePrior)
    | 0xA0 => some .reset
    | 0xB0 => some (.intent .enter)
    | 0xB1 => some (.intent (.function 0))
    | 0xB2 => some (.intent (.function 1))
    | 0xB3 => some (.intent (.function 2))
    | 0xB4 => some (.intent (.function 3))
    | 0xB5 => some (.intent (.function 4))
    | 0xB6 => some (.intent (.function 5))
    | 0xB7 => some (.intent (.function 6))
    | 0xB8 => some (.intent (.function 7))
    | 0xB9 => some (.intent (.function 8))
    | 0xBA => some (.intent (.function 9))
    | 0xBB => some (.intent (.function 10))
    | 0xBC => some (.intent (.function 11))
    | 0xBD => some (.intent .cancel)
    | 0xBE => some (.intent .clear)
    | _ => none

/-- The body of a KEY message. -/
def parseKey : List Byte → Option Upstream
  | [code] => (keyItem code).map .key
  | _ => none

/-- The body of a SCAN message: a status and the scan text, of 1 to 49 bytes in all; the text of a bad SCAN
is not examined (R155, R199). -/
def parseScan : List Byte → Option Upstream
  | status :: text =>
    if status = 0#8 then (if text.length ≤ 48 then some (.scan false text) else none)
    else if status = 1#8 then (if textValid 1 48 text then some (.scan true text) else none)
    else none
  | [] => none

/-- The upstream message that a type and a body decode to, or none (R155, R199). -/
def decodeUpstream (type : Byte) (body : List Byte) : Option Upstream :=
  match type.toNat with
  | 0x01 => parseKey body
  | 0x02 => parseScan body
  | 0x03 => if body.isEmpty then some .attn else none
  | 0x04 => if body.isEmpty then some .alive else none
  | _ => none

end Sys2Proof.Machine
end

