-- ==== Sys2Proof/Machine/Flags.lean ====
section
/-! DEFINITION. The Event Unit: raising and clearing event flags, enables, and the level of SRQ (section
10.6). -/

namespace Sys2Proof.Machine

/-- Per-station event kinds (R186). -/
inductive StationEvent where
  | entryReady
  | attention
  | responseTimeout
  | entryOverrun
  | keyOverrun
  | scannerSuspended
  | lineDown
  | lineUp
  deriving DecidableEq, Repr

/-- Part event kinds (R186). -/
inductive PartEvent where
  | powerOn
  | hostOverrun
  | frameError
  deriving DecidableEq, Repr

/-- The number of a per-station kind (R194). -/
def StationEvent.index : StationEvent → Nat
  | .entryReady => 0
  | .attention => 1
  | .responseTimeout => 2
  | .entryOverrun => 3
  | .keyOverrun => 4
  | .scannerSuspended => 5
  | .lineDown => 6
  | .lineUp => 7

/-- The bit of a part kind among the part flags (R194); its kind number is 8 more. -/
def PartEvent.index : PartEvent → Nat
  | .powerOn => 0
  | .hostOverrun => 1
  | .frameError => 2

/-- The enables of the per-station kinds, bit n for kind n. -/
def EventUnit.stationEnables (e : EventUnit) : BitVec 8 := e.enables.extractLsb' 0 8

/-- The enables of the part kinds, in the places of the part flags. -/
def EventUnit.partEnables (e : EventUnit) : BitVec 3 := e.enables.extractLsb' 8 3

/-- Captures a per-station event: its flag becomes pending when its kind is enabled (R186). -/
def EventUnit.raiseStation (e : EventUnit) (i : StationId) (k : StationEvent) : EventUnit :=
  { e with
    stationFlags :=
      e.stationFlags.set i.val (e.stationFlags[i.val] ||| (BitVec.twoPow 8 k.index &&& e.stationEnables)) }

/-- Captures a part event: its flag becomes pending when its kind is enabled (R186). -/
def EventUnit.raisePart (e : EventUnit) (k : PartEvent) : EventUnit :=
  { e with partFlags := e.partFlags ||| (BitVec.twoPow 3 k.index &&& e.partEnables) }

/-- Clears the flags of station `i` that the mask names. -/
def EventUnit.clearStation (e : EventUnit) (i : StationId) (mask : BitVec 8) : EventUnit :=
  { e with stationFlags := e.stationFlags.set i.val (e.stationFlags[i.val] &&& ~~~mask) }

/-- Clears all 67 flags (R184). -/
def EventUnit.clearAll (e : EventUnit) : EventUnit :=
  { e with partFlags := 0#3, stationFlags := Vector.replicate 8 0#8 }

/-- ENABLE EVENTS: the enables take the values carried, POWER-ON stays on, and the pending flags of the
kinds now off are cleared (R187). -/
def EventUnit.enable (e : EventUnit) (enables : BitVec 11) : EventUnit :=
  let e' := { e with enables := enables ||| BitVec.twoPow 11 8 }
  { e' with
    partFlags := e.partFlags &&& e'.partEnables
    stationFlags := e.stationFlags.map fun f => f &&& e'.stationEnables }

/-- CLEAR EVENTS: the named flags are cleared and the hold-off starts from 200 ms (R188). -/
def EventUnit.clear (e : EventUnit) (part : BitVec 3) (flags : Vector (BitVec 8) 8) : EventUnit :=
  { e with
    partFlags := e.partFlags &&& ~~~part
    stationFlags := e.stationFlags.zipWith (fun f g => f &&& ~~~g) flags
    holdOff := some Config.holdOffMilliseconds }

/-- Whether any of the 67 flags is pending (R189). -/
def EventUnit.anyPending (e : EventUnit) : Bool :=
  e.partFlags != 0#3 || e.stationFlags.toList.any fun f => f != 0#8

/-- The level of SRQ: asserted exactly when a flag is pending and the hold-off is not running (R189). -/
def EventUnit.srqLevel (e : EventUnit) : Bool := e.anyPending && e.holdOff.isNone

/-- Drives the SRQ output. -/
def EventUnit.drive (e : EventUnit) : EventUnit := { e with srq := e.srqLevel }

/-- The part with station events of station `i` raised. -/
def State.raise (s : State) (i : StationId) (ks : List StationEvent) : State :=
  { s with events := ks.foldl (fun e k => e.raiseStation i k) s.events }

/-- The part with a part event raised. -/
def State.raisePart (s : State) (k : PartEvent) : State := { s with events := s.events.raisePart k }

/-- The end of every command: SRQ takes its level (R189) and the machine goes on. -/
def State.done (s : State) : Host.Outcome State Fault Refusal := .next { s with events := s.events.drive }

end Sys2Proof.Machine
end

