-- ==== Sys2Proof/Machine/Screen.lean ====
section
/-! DEFINITION. Composing the screen image of a station (R39 to R41), and the spans between two images
(R42). -/

namespace Sys2Proof.Machine

/-! ## Rows 1 to 23 (R39) -/

/-- The rendition of a field's places: the first row of R39's table that applies. -/
def FieldRec.rendition (f : FieldRec) : Rendition :=
  if f.mark.isSome then .reverse
  else if f.bright then .bright
  else if f.isInput then .underline
  else .normal

/-- The place at an offset of a field (R39). -/
def FieldRec.placeAt (f : FieldRec) (off : Nat) : Place where
  char := if !f.isInput && f.defn.hidden then blank else f.content.getD off blank
  rend := f.rendition

/-- One place of the form area, among the fields of the current page (R39). -/
def formPlace (fields : List FieldRec) (p : Nat) : Place :=
  match fields.find? fun f => f.covers p with
  | some f => f.placeAt (p - f.start)
  | none => ⟨blank, .normal⟩

/-- Row `r` of the form area, among the fields of the current page (R39). -/
def formRow (fields : List FieldRec) (r : Nat) : List Place :=
  let onRow := fields.filter fun f => f.defn.row == r
  (List.range 80).map fun c => formPlace onRow (positionOf r 1 + c)

/-! ## Row 24 (R40, R41) -/

/-- The keyboard indicator's text (R41). -/
def keyboardText : Keyboard → List Byte
  | .free => []
  | .waiting => textOf ['W', 'A', 'I', 'T']
  | .timedOut => textOf ['N', 'O', ' ', 'R', 'E', 'P', 'L', 'Y']
  | .held => textOf ['H', 'O', 'L', 'D']
  | .inhibited .prot => textOf ['X', ' ', 'P', 'R', 'O', 'T']
  | .inhibited .char => textOf ['X', ' ', 'C', 'H', 'A', 'R']
  | .inhibited .full => textOf ['X', ' ', 'F', 'U', 'L', 'L']
  | .inhibited .format => textOf ['X', ' ', 'F', 'O', 'R', 'M', 'A', 'T']
  | .inhibited .range => textOf ['X', ' ', 'R', 'A', 'N', 'G', 'E']
  | .inhibited .mand => textOf ['X', ' ', 'M', 'A', 'N', 'D']
  | .inhibited .route => textOf ['X', ' ', 'R', 'O', 'U', 'T', 'E']
  | .inhibited .pend => textOf ['X', ' ', 'P', 'E', 'N', 'D']

/-- Whether the keyboard indicator area is in REVERSE: INHIBITED or TIMED-OUT (R40). -/
def keyboardReverse : Keyboard → Bool
  | .inhibited _ => true
  | .timedOut => true
  | .free | .waiting | .held => false

/-- The scanner indicator's text (R40). -/
def scannerText : ScannerState → List Byte
  | .enabled => []
  | .suspended | .disabled => textOf ['S', 'C', 'N', ' ', 'O', 'F', 'F']

/-- The page indicator's text, such as "P2/3" (R40). -/
def pageText (page pages : Nat) : List Byte := byteOf 0x50 :: decimal page ++ slash :: decimal pages

/-- The status line of an ACTIVE station that holds the instance `x` (R40). -/
def activeStatus (st : Station) (x : FormInstance) : List Place :=
  statusRow
    { notice := st.notice
      keyboard := keyboardText st.keyboard
      reverse := keyboardReverse st.keyboard
      page := pageText x.page x.defn.pages
      insert := if x.insert then textOf ['I', 'N', 'S'] else []
      scanner := scannerText st.line.scanner
      attention := if st.attention then textOf ['A', 'T', 'T', 'N'] else [] }

/-- The image that pictures a station (R39, R40). An ACTIVE station always holds an instance (R26); were it
without one, it would have nothing to picture but the NO-FORM image. -/
def composeImage (st : Station) : Image :=
  match st.state, st.form with
  | .active, some x =>
    let fields := x.fields.filter fun f => f.defn.page == x.page
    (List.range 23).map (fun r => formRow fields (r + 1)) ++ [activeStatus st x]
  | .suspended, _ => blankImage suspendedStatus
  | .noForm, _ => blankImage (noFormStatus (scannerText st.line.scanner))
  | .active, none => blankImage (noFormStatus (scannerText st.line.scanner))

/-- The cursor shown on the head: the instance cursor while ACTIVE, else position 0 (R37). -/
def Station.cursorShown (st : Station) : Nat :=
  match st.state, st.form with
  | .active, some x => x.cursor
  | _, _ => 0

/-! ## Changes (R42) -/

/-- The columns, counted from `c`, at which two rows differ. -/
def changedColumns : Nat → List Place → List Place → List Nat
  | c, a :: as, b :: bs => if a = b then changedColumns (c + 1) as bs else c :: changedColumns (c + 1) as bs
  | _, _, _ => []

/-- The span of one row: its lowest changed column and its highest (R42). -/
def rowSpan (r : Nat) (old new : List Place) : Option Span :=
  match changedColumns 1 old new with
  | [] => none
  | c :: cs => some ⟨r, c, (c :: cs).getLast (List.cons_ne_nil c cs)⟩

/-- The spans between two images, one for each changed row, counted from row `r` (R42, log 8). -/
def imageSpans : Nat → Image → Image → List Span
  | r, a :: as, b :: bs =>
    match rowSpan r a b with
    | some s => s :: imageSpans (r + 1) as bs
    | none => imageSpans (r + 1) as bs
  | _, _, _ => []

end Sys2Proof.Machine
end

