-- ==== Sys2Proof/Machine/LineUnit.lean ====
section
/-! DEFINITION. The station line unit: the paint queue (section 9.4), tones (R168), the paint engine
(section 9.5), the line going DOWN (R158), and the counters of damaged messages (R156). -/

namespace Sys2Proof.Machine

/-! ## The paint queue (R161 to R163) -/

/-- Two spans of one row touch when they share a column or when one ends at the column before the other
begins (R161). -/
def Span.touches (a b : Span) : Bool :=
  a.row == b.row && decide (a.first ≤ b.last + 1) && decide (b.first ≤ a.last + 1)

/-- The span from the lowest first column to the highest last column. -/
def Span.hull (a b : Span) : Span := ⟨a.row, min a.first b.first, max a.last b.last⟩

/-- The span that replaces `s` and every queued span it touches (R161 case 3). -/
def hullOver (s : Span) (q : List Span) : Span := (q.filter s.touches).foldl Span.hull s

/-- The queue with the spans that `s` touches replaced by `h`, at the place of the earliest of them. -/
def replaceTouched (s h : Span) : List Span → List Span
  | [] => []
  | x :: xs => if s.touches x then h :: xs.filter (fun y => !s.touches y) else x :: replaceTouched s h xs

/-- Case 3 of R161: the merge, repeated until the new span touches no other queued span of its row. -/
def mergeSpan : Nat → Span → List Span → List Span
  | 0, s, q => replaceTouched s (hullOver s q) q
  | n + 1, s, q => mergeSpan n (hullOver s q) (replaceTouched s (hullOver s q) q)

/-- The queue emptied and the repaint-all flag set; a repaint in progress is abandoned (R162). -/
def LineUnit.requestRepaint (l : LineUnit) : LineUnit :=
  { l with paintQueue := [], repaintAll := true, repaint := none }

/-- Cases 3 to 5 of R161. -/
def LineUnit.enqueue (l : LineUnit) (s : Span) : LineUnit :=
  if l.paintQueue.any s.touches then { l with paintQueue := mergeSpan l.paintQueue.length s l.paintQueue }
  else if l.paintQueue.length < Config.paintQueue then { l with paintQueue := l.paintQueue ++ [s] }
  else l.requestRepaint

/-- A span handed by the composer (R161, R163). -/
def LineUnit.handSpan (l : LineUnit) (s : Span) : LineUnit :=
  if l.repaintAll then l
  else
    match l.repaint with
    | some next => if next ≤ s.row then l else l.enqueue s
    | none => l.enqueue s

/-! ## Tones (R168) -/

/-- A tone asked for: dropped while the line is DOWN, else pending, a long one staying long (R168). -/
def LineUnit.askTone (l : LineUnit) (t : Tone) : LineUnit :=
  if l.up then { l with tone := some (if l.tone = some .long then .long else t) } else l

/-! ## The paint engine (R164 to R167) -/

/-- The fewest runs of one rendition that the places allow (R154). -/
def runsOf : List Place → List (Rendition × Nat)
  | [] => []
  | p :: ps =>
    match runsOf ps with
    | (r, n) :: rest => if p.rend = r then (r, n + 1) :: rest else (p.rend, 1) :: (r, n) :: rest
    | [] => [(p.rend, 1)]

/-- The places of a span in an image. -/
def placesOf (img : Image) (s : Span) : List Place :=
  ((img.getD (s.row - 1) []).drop (s.first - 1)).take (s.last + 1 - s.first)

/-- The PAINT of a span, read from the image as it stands (R165). -/
def paintOf (img : Image) (s : Span) : Message :=
  .paint s.row s.first ((placesOf img s).map Place.char) (runsOf (placesOf img s))

/-- The span of a whole row (R166). -/
def wholeRow (r : Nat) : Span := ⟨r, 1, 80⟩

/-- The span that is sent next: the earliest of row 24, else the head of the queue (R164 orders 4, 5). -/
def nextSpan (q : List Span) : Option Span :=
  match q.find? fun s => s.row == 24 with
  | some s => some s
  | none => q.head?

/-- The engine's choice below the orders of a tone and of a repaint in progress (R164 orders 3 to 6). -/
def LineUnit.startOther (l : LineUnit) (img : Image) (cursor : Nat) : LineUnit :=
  if l.repaintAll then
    { l with repaintAll := false, repaint := some 1, inFlight := some .erase, lastCursor := some 0 }
  else
    match nextSpan l.paintQueue with
    | some s => { l with paintQueue := l.paintQueue.erase s, inFlight := some (paintOf img s) }
    | none =>
      if l.lastCursor = some cursor then l
      else { l with lastCursor := some cursor, inFlight := some (.cursor (rowOf cursor) (columnOf cursor)) }

/-- The engine's choice of the next message, by the first order of R164 that applies. -/
def LineUnit.startNext (l : LineUnit) (img : Image) (cursor : Nat) : LineUnit :=
  match l.tone with
  | some t => { l with tone := none, inFlight := some (.tone t) }
  | none =>
    match l.repaint with
    | some r =>
      if r ≤ 24 then { l with repaint := some (r + 1), inFlight := some (paintOf img (wholeRow r)) }
      else l.startOther img cursor
    | none => l.startOther img cursor

/-- The paint engine: it chooses whenever the line is UP and no message is in flight (R164). -/
def LineUnit.engine (l : LineUnit) (img : Image) (cursor : Nat) : LineUnit :=
  if l.up && l.inFlight.isNone then l.startNext img cursor else l

/-! ## The line (R156 to R159, R169) -/

/-- The line goes DOWN, as the line unit takes it (R158). -/
def LineUnit.goDown (l : LineUnit) : LineUnit :=
  { l with
    up := false, silence := none, inFlight := none, repaint := none, paintQueue := [], repaintAll := true,
    tone := none, lastCursor := none }

/-- An accepted upstream message: the silence timer starts afresh and the line is UP (R157, R159). -/
def LineUnit.hear (l : LineUnit) : LineUnit :=
  { l with up := true, silence := some Config.silenceSeconds }

/-- The scanner state that a scanner setting gives (R106). -/
def scannerBySetting (on : Bool) : ScannerState := if on then .enabled else .disabled

/-- The scanner counter set to 0 and the scanner state set by the setting (R106). -/
def LineUnit.resetScanner (l : LineUnit) (on : Bool) : LineUnit :=
  { l with scanErrors := 0, scanner := scannerBySetting on }

/-- STATION RESET at the line unit, but for the repaint that the composer asks for: the pending tone is
dropped and the scanner follows its setting (R151, R169). -/
def LineUnit.stationReset (l : LineUnit) (on : Bool) : LineUnit := { l.resetScanner on with tone := none }

/-- PART RESET at the line unit, likewise; the line error counters become 0 (R169). -/
def LineUnit.partReset (l : LineUnit) (on : Bool) : LineUnit :=
  { l.stationReset on with parityErrors := 0, framingErrors := 0 }

end Sys2Proof.Machine
end

