-- ==== Sys2Proof/Machine/Composer.lean ====
section
/-! DEFINITION. One event at one station, taken whole: what the composer does, what it hands its line unit
(R42), and what it raises. The shared moves of the composer: inhibiting the keyboard (R52), guarded moves
(R59), the page switch (R43), the response timer (R126), and the arrival and the taking of items (R48 to
R50). -/

namespace Sys2Proof.Machine

/-- An event in progress at a station: the station as far as the event has changed it, the tones asked
(in order), whether a repaint of the whole screen is asked, and the events raised. -/
structure Act where
  station : Station
  tones : List Tone
  repaint : Bool
  raised : List StationEvent
  deriving DecidableEq, Repr

/-- The start of an event at a station. -/
def Act.start (st : Station) : Act := ⟨st, [], false, []⟩

/-- The event with its instance replaced. -/
def Act.putForm (a : Act) (x : FormInstance) : Act := { a with station := { a.station with form := some x } }

/-- The event with the keyboard state set. -/
def Act.setKeyboard (a : Act) (k : Keyboard) : Act := { a with station := { a.station with keyboard := k } }

/-- A tone asked for (R53). -/
def Act.ask (a : Act) (t : Tone) : Act := { a with tones := a.tones ++ [t] }

/-- A repaint of the whole screen asked for (R42). -/
def Act.askRepaint (a : Act) : Act := { a with repaint := true }

/-- An event raised for the station (R186). -/
def Act.raise (a : Act) (k : StationEvent) : Act := { a with raised := a.raised ++ [k] }

/-- The response timer stopped, its remaining time discarded (R126). -/
def Act.stopTimer (a : Act) : Act := { a with station := { a.station with timer := none } }

/-- The response timer started with the station's timeout, when that is not 0 (R126). -/
def Act.startTimer (a : Act) : Act :=
  if a.station.settings.timeout = 0 then a
  else { a with station := { a.station with timer := some a.station.settings.timeout } }

/-- The key queue emptied (R47). -/
def Act.emptyQueue (a : Act) : Act := { a with station := { a.station with queue := [] } }

/-- The keyboard becomes INHIBITED, with a long tone (R52). -/
def Act.inhibit (a : Act) (r : Reason) : Act := (a.setKeyboard (.inhibited r)).ask .long

/-! ## The end of an event (R42, R135, log 7) -/

/-- The line unit after the composer has handed it what the event changed: a repaint request or the spans,
then the tones, unless the tone setting is off (R42, R53, R145). -/
def Act.handed (a : Act) (before after : Image) : LineUnit :=
  let painted :=
    if a.repaint then a.station.line.requestRepaint
    else (imageSpans 1 before after).foldl LineUnit.handSpan a.station.line
  if a.station.settings.tone then a.tones.foldl LineUnit.askTone painted else painted

/-- The station at the end of the event: its image recomposed, the changes handed to the line unit, and the
paint engine's choice made (R42, R164). -/
def Act.finish (a : Act) (before : Image) : Station :=
  { a.station with
    image := composeImage a.station
    line := (a.handed before (composeImage a.station)).engine (composeImage a.station) a.station.cursorShown }

/-- An event taken whole at station `i` (R135). -/
def State.event (s : State) (i : StationId) (f : Act → Act) : State :=
  let a := f (Act.start (s.station i))
  (s.setStation i (a.finish (s.station i).image)).raise i a.raised

/-! ## Moves and checks (R59, R43) -/

/-- A failed check: the field receives the mark and the keyboard becomes INHIBITED with its reason (R59,
R86). -/
def Act.failCheck (a : Act) (x : FormInstance) (n : Nat) (m : Mark) : Act :=
  (a.putForm (x.mark n m)).inhibit (markReason m)

/-- A move of the cursor to `dest`, guarded by the exit check (R59). -/
def Act.move (a : Act) (x : FormInstance) (dest : Nat) : Act :=
  match x.departure fun f => f.covers dest with
  | some (n, m) => a.failCheck x n m
  | none => a.putForm { x with cursor := dest }

/-- The instance on page `p`, the page visited and the cursor at the page's first input field (R43 steps 1
and 2). -/
def FormInstance.turnTo (x : FormInstance) (p : Nat) : FormInstance :=
  { x with page := p, visited := addPage x.visited p, cursor := firstStart (x.inputsOn p) }

/-- The instance with settling set; with the line DOWN settling is cleared at once (R44). -/
def FormInstance.settle (x : FormInstance) (lineUp : Bool) : FormInstance := { x with settling := lineUp }

/-- A page switch without exit check, in ACTIVE (R43). -/
def Act.switchPage (a : Act) (x : FormInstance) (p : Nat) : Act :=
  (a.putForm ((x.turnTo p).settle a.station.line.up)).askRepaint

/-- A repaint asked for by an order that may reach a SUSPENDED station, whose image does not change (R146). -/
def Act.askRepaintIfActive (a : Act) : Act := if a.station.state = .active then a.askRepaint else a

/-- The instance after a page switch by a host order: in SUSPENDED settling is not set (R43, R146, R149). -/
def Act.hostTurn (a : Act) (x : FormInstance) (p : Nat) : FormInstance :=
  if a.station.state = .active then (x.turnTo p).settle a.station.line.up else x.turnTo p

/-! ## The key queue (R48 to R50) -/

/-- Whether an arriving item joins the queue of an ACTIVE station, its room aside (R48). -/
def Station.joins (st : Station) : Bool :=
  match st.keyboard with
  | .free | .inhibited _ | .timedOut => true
  | .waiting | .held => st.settings.typeahead

/-- The arrival of an item from the line unit (R48). -/
def Act.offer (a : Act) (it : Item) : Act :=
  match a.station.state with
  | .noForm | .suspended => a
  | .active =>
    if !a.station.joins then a.ask .short
    else if a.station.queue.length < Config.keyQueue then
      { a with station := { a.station with queue := a.station.queue ++ [it] } }
    else (a.raise .keyOverrun).ask .short

/-- Whether the keyboard state lets the composer take items (R49). -/
def Keyboard.takes : Keyboard → Bool
  | .free | .inhibited _ | .timedOut => true
  | .waiting | .held => false

/-- The item the composer may take now, with the instance it acts on: the head of the queue, in ACTIVE with
settling clear and the keyboard FREE, INHIBITED or TIMED-OUT (R49). -/
def Station.head? (st : Station) : Option (Item × FormInstance) :=
  match st.state, st.form, st.queue with
  | .active, some x, it :: _ => if st.keyboard.takes && !x.settling then some (it, x) else none
  | _, _, _ => none

/-- The event with the head item removed from the queue (R49). -/
def Act.dropHead (a : Act) : Act := { a with station := { a.station with queue := a.station.queue.tail } }

/-- A RESET item: the keyboard becomes FREE and insert mode off (R50, R51). -/
def Act.reset (a : Act) (x : FormInstance) : Act := (a.putForm { x with insert := false }).setKeyboard .free

/-- An item taken: acted on in FREE; in INHIBITED and TIMED-OUT a RESET frees the keyboard and every other
item is discarded with a short tone (R49, R50). -/
def Act.takeItem (a : Act) (it : Item) (x : FormInstance) (act : Act → FormInstance → Act) : Act :=
  match a.station.keyboard with
  | .free => act a.dropHead x
  | .inhibited _ | .timedOut | .waiting | .held =>
    if it = .reset then a.dropHead.reset x else a.dropHead.ask .short

/-- The step in which the composer of station `i` takes the head item of its queue, when that item is one
that `want` chooses. When the composer may not take such an item the step cannot occur, and nothing
changes (log 3). -/
def State.take (s : State) (i : StationId) (want : Item → Bool)
    (act : Item → Act → FormInstance → Act) : Host.Outcome State Fault Refusal :=
  match (s.station i).head? with
  | some (it, x) => if want it then (s.event i fun a => a.takeItem it x (act it)).done else .next s
  | none => .next s

end Sys2Proof.Machine
end

