-- ==== Sys2Proof/Machine/Keying.lean ====
section
/-! DEFINITION. Keying and cursor movement (chapter 3): entering a character, the edit keys, the moves and
the page keys, and the steps of the table in which such an item is taken. -/

namespace Sys2Proof.Machine

/-! ## Character entry (R55 to R58) -/

/-- The field's last character is a blank: insert mode has room (R57). -/
def FieldRec.hasRoom (f : FieldRec) : Bool := f.content.getLast? == some blank

/-- The field's content with the character placed at the offset (R56, R57). -/
def placed (insert : Bool) (t : List Byte) (off : Nat) (c : Byte) : List Byte :=
  if insert then insertAt t off c else overtype t off c

/-- The instance with a new content in field `n`, the field touched, its mark changed by `marking`, and the
rules downstream of it run (R58 steps 1 and 2, R63, R65). -/
def FormInstance.edit (x : FormInstance) (n : Nat) (content : List Byte) (marking : Option Mark → Option Mark) :
    FormInstance :=
  (x.modField n fun f => { f with content := content, touched := true, mark := marking f.mark }).recompute [n]

/-- The advance after a placed character: a TAB with its exit check from the last position of a SKIP field,
else one position on (R58 step 3). -/
def Act.advance (a : Act) (x : FormInstance) (f : FieldRec) (off : Nat) : Act :=
  if off + 1 = f.defn.length ∧ f.defn.skip = true then (a.putForm x).move x (x.tabFrom x.cursor)
  else a.putForm { x with cursor := rightOf x.cursor }

/-- A character entered at the cursor: the place, character and room tests, then the placement (R55 to
R58). -/
def Act.enterChar (a : Act) (x : FormInstance) (key : Byte) : Act :=
  match x.inputAtCursor with
  | none => a.inhibit .prot
  | some f =>
    let off := x.cursor - f.start
    let c := foldedFor (x.classOf f) key
    if !admits (x.classOf f) x.insert f.content off c then a.failCheck x f.defn.number .char
    else if x.insert && !f.hasRoom then a.inhibit .full
    else a.advance (x.edit f.defn.number (placed x.insert f.content off c) fun _ => none) f off

/-! ## Edit keys (R63 to R67) -/

/-- An edit of the content of the field under the cursor from the offset on, the mark left; outside every
input field the keyboard becomes INHIBITED PROT (R63, R65). -/
def Act.editField (a : Act) (x : FormInstance) (change : List Byte → Nat → List Byte) : Act :=
  match x.inputAtCursor with
  | none => a.inhibit .prot
  | some f => a.putForm (x.edit f.defn.number (change f.content (x.cursor - f.start)) id)

/-- DELETE (R63). -/
def Act.delete (a : Act) (x : FormInstance) : Act := a.editField x deleteAt

/-- ERASE-FIELD (R65). -/
def Act.eraseField (a : Act) (x : FormInstance) : Act := a.editField x eraseFrom

/-- BACKSPACE: inside the same input field, one left and a DELETE there; else the LEFT move (R64). -/
def Act.backspace (a : Act) (x : FormInstance) : Act :=
  match x.inputAtCursor with
  | some f =>
    if f.covers (leftOf x.cursor) then a.delete { x with cursor := leftOf x.cursor }
    else a.move x (leftOf x.cursor)
  | none => a.move x (leftOf x.cursor)

/-- A field blanked, its touched flag and error mark cleared (R66, R139 step 1). -/
def FieldRec.blanked (f : FieldRec) : FieldRec := { f.fill [] with touched := false, mark := none }

/-- The instance with the input fields that `which` chooses blanked, and the rules downstream of them run
(R66, R139). -/
def FormInstance.eraseInputs (x : FormInstance) (which : FieldRec → Bool) : FormInstance :=
  (x.modFields (fun f => f.isInput && which f) FieldRec.blanked).recompute
    ((x.fields.filter fun f => f.isInput && which f).map fun f => f.defn.number)

/-- ERASE-INPUT, keyed (R66). -/
def Act.eraseInput (a : Act) (x : FormInstance) : Act :=
  let y := x.eraseInputs fun f => f.defn.page == x.page
  a.putForm { y with cursor := y.homeTo }

/-- INSERT (R67). -/
def Act.toggleInsert (a : Act) (x : FormInstance) : Act := a.putForm { x with insert := !x.insert }

/-! ## Page keys (R68) -/

/-- The target of PAGE-NEXT, if it has one (R68). -/
def FormInstance.nextPage (x : FormInstance) : Option Nat :=
  if x.page < x.defn.pages then some (x.page + 1) else if x.defn.cycle then some 1 else none

/-- The target of PAGE-PRIOR, if it has one (R68). -/
def FormInstance.priorPage (x : FormInstance) : Option Nat :=
  if 1 < x.page then some (x.page - 1) else if x.defn.cycle then some x.defn.pages else none

/-- A page key with its target: a short tone without one, else a switch guarded by the exit check, whose
destination counts as outside the field under the cursor (R68). -/
def Act.pageKey (a : Act) (x : FormInstance) (target : Option Nat) : Act :=
  match target with
  | none => a.ask .short
  | some p =>
    match x.departure fun _ => false with
    | some (n, m) => a.failCheck x n m
    | none => a.switchPage x p

/-! ## The steps of the table -/

/-- CHAR: the head item is a character (R55). -/
def execChar (i : StationId) (s : State) : Host.Outcome State Fault Refusal :=
  s.take i (fun it => match it with | .char _ => true | _ => false) fun it a x =>
    match it with
    | .char c => a.enterChar x c
    | _ => a

/-- INSERT (R67). -/
def execInsert (i : StationId) (s : State) : Host.Outcome State Fault Refusal :=
  s.take i (· == .edit .insert) fun _ a x => a.toggleInsert x

/-- DELETE (R63). -/
def execDelete (i : StationId) (s : State) : Host.Outcome State Fault Refusal :=
  s.take i (· == .edit .delete) fun _ a x => a.delete x

/-- BACKSPACE (R64). -/
def execBackspace (i : StationId) (s : State) : Host.Outcome State Fault Refusal :=
  s.take i (· == .edit .backspace) fun _ a x => a.backspace x

/-- ERASE-FIELD (R65). -/
def execEraseField (i : StationId) (s : State) : Host.Outcome State Fault Refusal :=
  s.take i (· == .edit .eraseField) fun _ a x => a.eraseField x

/-- ERASE-INPUT (R66). -/
def execEraseInput (i : StationId) (s : State) : Host.Outcome State Fault Refusal :=
  s.take i (· == .edit .eraseInput) fun _ a x => a.eraseInput x

/-- TAB (R61). -/
def execTab (i : StationId) (s : State) : Host.Outcome State Fault Refusal :=
  s.take i (· == .move .tab) fun _ a x => a.move x (x.tabFrom x.cursor)

/-- BACKTAB (R61). -/
def execBacktab (i : StationId) (s : State) : Host.Outcome State Fault Refusal :=
  s.take i (· == .move .backtab) fun _ a x => a.move x x.backtabTo

/-- UP (R60). -/
def execUp (i : StationId) (s : State) : Host.Outcome State Fault Refusal :=
  s.take i (· == .move .up) fun _ a x => a.move x (upOf x.cursor)

/-- DOWN (R60). -/
def execDown (i : StationId) (s : State) : Host.Outcome State Fault Refusal :=
  s.take i (· == .move .down) fun _ a x => a.move x (downOf x.cursor)

/-- LEFT (R60). -/
def execLeft (i : StationId) (s : State) : Host.Outcome State Fault Refusal :=
  s.take i (· == .move .left) fun _ a x => a.move x (leftOf x.cursor)

/-- RIGHT (R60). -/
def execRight (i : StationId) (s : State) : Host.Outcome State Fault Refusal :=
  s.take i (· == .move .right) fun _ a x => a.move x (rightOf x.cursor)

/-- HOME (R62). -/
def execHome (i : StationId) (s : State) : Host.Outcome State Fault Refusal :=
  s.take i (· == .move .home) fun _ a x => a.move x x.homeTo

/-- NEWLINE (R62). -/
def execNewline (i : StationId) (s : State) : Host.Outcome State Fault Refusal :=
  s.take i (· == .move .newline) fun _ a x => a.move x x.newlineTo

/-- PAGE-NEXT (R68). -/
def execPageNext (i : StationId) (s : State) : Host.Outcome State Fault Refusal :=
  s.take i (· == .move .pageNext) fun _ a x => a.pageKey x x.nextPage

/-- PAGE-PRIOR (R68). -/
def execPagePrior (i : StationId) (s : State) : Host.Outcome State Fault Refusal :=
  s.take i (· == .move .pagePrior) fun _ a x => a.pageKey x x.priorPage

/-- RESET, in FREE, INHIBITED and TIMED-OUT alike (R50, R51). -/
def execReset (i : StationId) (s : State) : Host.Outcome State Fault Refusal :=
  s.take i (· == .reset) fun _ a x => a.reset x

end Sys2Proof.Machine
end

