-- ==== Sys2Proof/Machine/Sending.lean ====
section
/-! DEFINITION. Sending an entry (chapter 7): the entry record, the slot rule, full, short and clearing
sends, the expiry of the response timer and the attention flag, and the steps of the table for them. -/

namespace Sys2Proof.Machine

/-! ## The entry record (R121, R122) -/

/-- The touched-field list (R122). -/
def FormInstance.touchedMembers (x : FormInstance) : List (Nat × List Byte) :=
  (x.byPlace.filter FieldRec.touched).map fun f => (f.defn.number, trimRight f.content)

/-- The report flag of the rule that targets field `n`. -/
def reported (rules : List Rule) (n : Nat) : Bool := rules.any fun r => r.target == n && r.report

/-- The computed-field list (R122). -/
def FormInstance.computedMembers (x : FormInstance) : List ComputedMember :=
  (x.byPlace.filter fun f => x.isComputed f && reported x.defn.rules f.defn.number).filterMap fun f =>
    f.result.map fun r => ⟨f.defn.number, r, f.content.dropWhile isBlank⟩

/-- The entry record of an instance as it stands; with `full` it carries the two field lists (R121, R124). -/
def composeEntry (i : StationId) (intent : Intent) (full : Bool) (x : FormInstance) : Entry where
  station := i
  intent := intent
  page := x.page
  row := rowOf x.cursor
  column := columnOf x.cursor
  visited := x.visited
  generation := x.generation
  touched := if full then x.touchedMembers else []
  computed := if full then x.computedMembers else []

/-! ## Sends (R116, R118, R119, R123 to R125) -/

/-- An entry put into the slot, and ENTRY-READY raised (R117). -/
def Act.fillSlot (a : Act) (e : Entry) : Act :=
  ({ a with station := { a.station with slot := some e } } : Act).raise .entryReady

/-- Composing: the entry enters the slot, the keyboard becomes WAITING and the response timer starts (R123,
R124). -/
def Act.compose (a : Act) (i : StationId) (k : SendKey) (full : Bool) (x : FormInstance) : Act :=
  ((a.putForm x).setKeyboard .waiting).startTimer.fillSlot (composeEntry i (.key k) full x)

/-- A failed full send: the failing fields are marked, the keyboard takes the first failure's reason, and
the cursor goes to the first failing field, by a page switch when its page is not shown (R119, R120). -/
def Act.failSend (a : Act) (x : FormInstance) (f : FieldRec) (m : Mark) : Act :=
  let y := x.markFailing
  if f.defn.page = x.page then (a.putForm { y with cursor := f.start }).inhibit (markReason m)
  else
    ((a.putForm { (y.turnTo f.defn.page).settle a.station.line.up with cursor := f.start }).askRepaint).inhibit
      (markReason m)

/-- What is left of a full send after the slot rule (R119, R123). -/
def Act.fullSend (a : Act) (i : StationId) (k : SendKey) (x : FormInstance) : Act :=
  match x.failing with
  | [] => a.compose i k true x
  | (f, m) :: _ => a.failSend x f m

/-- A field restored by CLEAR: an input field takes its default text, untouched; every mark is cleared
(R125 steps 1 and 2, with R35, R85 and R87). The last sentence of R84 would have CLEAR leave every mark: that
the marks are cleared is the model's choice between rules that disagree (log 23). -/
def FieldRec.restored (f : FieldRec) : FieldRec :=
  if f.isInput then { f.fill f.defn.default with touched := false, mark := none } else { f with mark := none }

/-- The instance restored by CLEAR (R125 steps 1 to 5). -/
def FormInstance.restore (x : FormInstance) : FormInstance :=
  let y := ({ x with fields := x.fields.map FieldRec.restored }).recomputeAll
  let z := { y with page := 1, visited := addPage 0#4 1 }
  { z with cursor := z.homeTo }

/-- A send: insert mode goes off, and an occupied slot refuses it (R116, R118); else it goes on. -/
def Act.send (a : Act) (x : FormInstance) (go : Act → FormInstance → Act) : Act :=
  let y := { x with insert := false }
  if a.station.slot.isSome then ((a.putForm y).inhibit .pend).raise .entryOverrun else go a y

/-- Whether F1 to F12 (`n` counted from 0) is one of the form's short keys (R116). -/
def FormInstance.isShort (x : FormInstance) (n : Fin 12) : Bool := x.defn.shortKeys.getLsbD n.val

/-- A function key: a short send when it is a short key of the form, else a full send (R116). -/
def Act.functionSend (a : Act) (i : StationId) (n : Fin 12) (x : FormInstance) : Act :=
  if x.isShort n then a.compose i (.function n) false x else a.fullSend i (.function n) x

/-! ## The steps of the table -/

/-- ENTER: a full send (R116). -/
def execEnter (i : StationId) (s : State) : Host.Outcome State Fault Refusal :=
  s.take i (· == .intent .enter) fun _ a x => a.send x fun a y => a.fullSend i .enter y

/-- F1 to F12 (R116). -/
def execFunctionKey (i : StationId) (s : State) : Host.Outcome State Fault Refusal :=
  s.take i (fun it => match it with | .intent (.function _) => true | _ => false) fun it a x =>
    match it with
    | .intent (.function n) => a.send x fun a y => a.functionSend i n y
    | _ => a

/-- CANCEL: a short send (R124). -/
def execCancel (i : StationId) (s : State) : Host.Outcome State Fault Refusal :=
  s.take i (· == .intent .cancel) fun _ a x => a.send x fun a y => a.compose i .cancel false y

/-- CLEAR: the form restored, then a send with empty field lists (R125). -/
def execClear (i : StationId) (s : State) : Host.Outcome State Fault Refusal :=
  s.take i (· == .intent .clear) fun _ a x => a.send x fun a y => a.compose i .clear false y.restore

/-- The response timer expires: it stops, a WAITING keyboard becomes TIMED-OUT, and RESPONSE-TIMEOUT is
raised (R127). -/
def Act.expire (a : Act) : Act :=
  let k := if a.station.keyboard = .waiting then .timedOut else a.station.keyboard
  (a.stopTimer.setKeyboard k).raise .responseTimeout

/-- The response timer's expiry; a stopped timer has none (R127, log 4). -/
def execResponseTimerExpiry (i : StationId) (s : State) : Host.Outcome State Fault Refusal :=
  if (s.station i).timer.isSome then (s.event i Act.expire).done else .next s

end Sys2Proof.Machine
end

