-- ==== Sys2Proof/Machine/Orders.lean ====
section
/-! DEFINITION. Host orders to stations (chapter 8) and REREAD (R131): what each order does at one station,
and an order taken at each station of its set. -/

namespace Sys2Proof.Machine

/-- What became of an order at one station (R134): refused, the station left as it was; or applied, with the
event it made there, the LATE flag, the skipped-field list and the cut-field list. -/
inductive OrderResult where
  | refused (c : RefuseCode)
  | applied (a : Act) (late : Bool) (skipped : List (Nat × SkipReason)) (cut : List Nat)
  deriving DecidableEq, Repr

/-- An order applied with empty lists and a clear LATE flag (R134). -/
def OrderResult.plain (a : Act) : OrderResult := .applied a false [] []

/-- An order that needs an instance: refused NOFORM at a station that holds none (R136). -/
def withForm (a : Act) (k : FormInstance → OrderResult) : OrderResult :=
  match a.station.state, a.station.form with
  | .noForm, _ => .refused .noForm
  | _, none => .refused .noForm
  | _, some x => k x

/-! ## SHOW (R36, R137) -/

/-- A SHOW applied: the new instance, the keyboard FREE or HELD, the timer stopped, the queue emptied (R36). -/
def Act.showForm (a : Act) (x : FormInstance) (hold : Bool) : Act :=
  ({ a with
      station := { a.station with
        state := .active, form := some x, keyboard := if hold then .held else .free, timer := none,
        queue := [] } } : Act).askRepaint

/-- SHOW at one station (R136, R137). -/
def showOrder (l : Library) (number : Nat) (hold : Bool) (a : Act) : OrderResult :=
  match a.station.state with
  | .suspended => .refused .suspended
  | .noForm | .active =>
    match lookupKey number l.forms with
    | none => .refused .noForm
    | some d => .plain (a.showForm (newInstance number l.generation d l.classes a.station.line.up) hold)

/-! ## WRITE (R138 to R146) -/

/-- What the updates of a WRITE have done so far: the instance, and the two lists (R142). -/
structure Written where
  form : FormInstance
  skipped : List (Nat × SkipReason)
  cut : List Nat
  deriving DecidableEq, Repr

/-- Why an update is skipped, or none (R140). -/
def skipReason (policy : Policy) (k : Keyboard) (x : FormInstance) (u : Update) : Option SkipReason :=
  match x.field? u.field with
  | none => some .unknown
  | some f =>
    if x.isComputed f then some .computed
    else if f.isInput && f.touched && (match k with | .free | .inhibited _ => true | _ => false) &&
        policy == .keep then some .kept
    else none

/-- A field record with an update applied (R141 steps 1 to 4). -/
def FieldRec.updated (f : FieldRec) (u : Update) : FieldRec :=
  { f.fill u.text with
    touched := false
    mark := none
    override := match u.override with | some o => some o | none => f.override }

/-- The text of the update is longer than its field (R141). -/
def FormInstance.cuts (x : FormInstance) (u : Update) : Bool :=
  (x.field? u.field).any fun f => decide (f.defn.length < u.text.length)

/-- One update taken (R140 to R142). -/
def Written.update (policy : Policy) (k : Keyboard) (w : Written) (u : Update) : Written :=
  match skipReason policy k w.form u with
  | some r => { w with skipped := w.skipped ++ [(u.field, r)] }
  | none =>
    { w with
      form := (w.form.modField u.field fun f => f.updated u).recompute [u.field]
      cut := if w.form.cuts u then w.cut ++ [u.field] else w.cut }

/-- The page that will be current after step 5 of a WRITE (R138). -/
def pageAfter (w : WriteOrder) (x : FormInstance) : Nat := w.page.getD x.page

/-- BADFIELD: the CURSOR option names a field absent, or off the page (R138). -/
def badCursor (w : WriteOrder) (x : FormInstance) : Bool :=
  w.cursor.any fun c => !((x.field? c.1).any fun f => f.defn.page == pageAfter w x)

/-- Steps 1 to 4 of a WRITE (R139). -/
def writeFields (w : WriteOrder) (policy : Policy) (k : Keyboard) (x : FormInstance) : Written :=
  let erased := if w.eraseInput then x.eraseInputs fun _ => true else x
  let r := w.updates.foldl (Written.update policy k) ⟨erased, [], []⟩
  let unmarked :=
    if w.clearMarks then r.form.modFields (fun _ => true) fun f => { f with mark := none } else r.form
  { r with
    form :=
      if w.resetTouched then unmarked.modFields (fun _ => true) fun f => { f with touched := false }
      else unmarked }

/-- Step 6 of a WRITE: the cursor at the named field's start plus the offset, at most its last position
(R139). -/
def FormInstance.writeCursor (x : FormInstance) (c : Option (Nat × Nat)) : FormInstance :=
  match c with
  | none => x
  | some (n, off) =>
    match x.field? n with
    | some f => { x with cursor := f.start + min off (f.defn.length - 1) }
    | none => x

/-- RESTORE: the keyboard becomes FREE, the timer stops, insert mode goes off (R128). -/
def Act.restore (a : Act) (x : FormInstance) : Act :=
  ((a.putForm { x with insert := false }).setKeyboard .free).stopTimer

/-- Steps 5 to 8 of a WRITE on the instance that steps 1 to 4 left (R139, R146). -/
def Act.writeRest (a : Act) (w : WriteOrder) (x : FormInstance) : Act :=
  let turned := match w.page with | some p => a.hostTurn x p | none => x
  let y := turned.writeCursor w.cursor
  let painted := if w.page.isSome then a.askRepaintIfActive else a
  let restored := if w.restore then painted.restore y else painted.putForm y
  match w.tone with
  | some t => if a.station.state = .active then restored.ask t else restored
  | none => restored

/-- WRITE at one station (R136, R138 to R146). -/
def writeOrder (w : WriteOrder) (a : Act) : OrderResult :=
  withForm a fun x =>
    if w.page.any fun p => decide (x.defn.pages < p) then .refused .badPage
    else if badCursor w x then .refused .badField
    else
      let r := writeFields w a.station.settings.policy a.station.keyboard x
      .applied (a.writeRest w r.form) (w.restore && a.station.keyboard == .timedOut) r.skipped r.cut

/-! ## NOTICE, HOLD, RELEASE, PAGE and REREAD (R147 to R149, R131) -/

/-- NOTICE at one station (R147). -/
def noticeOrder (tone : Option Tone) (text : List Byte) (a : Act) : OrderResult :=
  withForm a fun _ =>
    let b : Act := { a with station := { a.station with notice := padCut Config.noticeText text } }
    match tone with
    | some t => .plain (if a.station.state = .active then b.ask t else b)
    | none => .plain b

/-- HOLD at one station (R148). -/
def holdOrder (a : Act) : OrderResult :=
  withForm a fun _ =>
    if a.station.keyboard = .waiting then .plain (a.stopTimer.setKeyboard .held) else .plain (a.setKeyboard .held)

/-- RELEASE at one station (R148). -/
def releaseOrder (a : Act) : OrderResult :=
  withForm a fun _ => .plain (if a.station.keyboard = .held then a.setKeyboard .free else a)

/-- PAGE at one station (R149). -/
def pageOrder (p : Nat) (a : Act) : OrderResult :=
  withForm a fun x =>
    if x.defn.pages < p then .refused .badPage
    else .plain ((a.putForm (a.hostTurn x p)).askRepaintIfActive)

/-- REREAD at station `i` (R131). -/
def rereadOrder (i : StationId) (a : Act) : OrderResult :=
  match a.station.state, a.station.form with
  | .suspended, _ => .refused .suspended
  | .noForm, _ => .refused .noForm
  | .active, none => .refused .noForm
  | .active, some x =>
    if a.station.slot.isSome then .refused .pending else .plain (a.fillSlot (composeEntry i .reread true x))

/-! ## Settings (R150) -/

/-- The settings with those that the order carries changed (R150). -/
def Settings.change (s : Settings) (c : SettingsChange) : Settings where
  typeahead := c.typeahead.getD s.typeahead
  timeout := c.timeout.getD s.timeout
  policy := c.policy.getD s.policy
  fallback := c.fallback.getD s.fallback
  scanner := c.scanner.getD s.scanner
  tone := c.tone.getD s.tone

/-- STATION SET at one station (R150, R106). -/
def stationSetOrder (c : SettingsChange) (a : Act) : OrderResult :=
  match a.station.state with
  | .active => .refused .busy
  | .noForm | .suspended =>
    .plain { a with
      station := { a.station with
        settings := a.station.settings.change c
        line := match c.scanner with
          | some on => a.station.line.resetScanner on
          | none => a.station.line } }

/-! ## Reset, suspend and resume (R151 to R153) -/

/-- The composer after STATION RESET or PART RESET (R46), with its line unit as given; a repaint of the
whole screen is asked. -/
def Act.resetTo (a : Act) (line : LineUnit) : Act :=
  ({ a with
      station := { a.station with
        state := .noForm, form := none, keyboard := .free, queue := [], slot := none, attention := false,
        timer := none, notice := List.replicate 40 blank, line := line } } : Act).askRepaint

/-- STATION RESET at one station (R151). -/
def Act.stationReset (a : Act) : Act := a.resetTo (a.station.line.stationReset a.station.settings.scanner)

/-- PART RESET at one station (R46, R169, R184). -/
def Act.partReset (a : Act) : Act := a.resetTo (a.station.line.partReset a.station.settings.scanner)

/-- An accepted SUSPEND (R28). -/
def Act.suspend (a : Act) : Act :=
  ({ a with
      station := { a.station with
        state := .suspended, queue := [], timer := none,
        form := a.station.form.map fun x => x.settle false } } : Act).askRepaint

/-- SUSPEND at one station whose event flags are `flags` (R152). -/
def suspendOrder (flags : BitVec 8) (a : Act) : OrderResult :=
  match a.station.state with
  | .suspended => .plain a
  | .noForm | .active =>
    if a.station.slot.isSome || a.station.attention || flags != 0#8 then .refused .pending
    else .plain a.suspend

/-- RESUME of a SUSPENDED station (R30). -/
def Act.resume (a : Act) : Act :=
  match a.station.form with
  | some x =>
    let b : Act := { a with
      station := { a.station with state := .active, form := some (x.settle a.station.line.up) } }
    (if a.station.keyboard = .waiting then b.startTimer else b).askRepaint
  | none => ({ a with station := { a.station with state := .noForm } } : Act).askRepaint

/-- RESUME at one station (R153). -/
def resumeOrder (a : Act) : OrderResult :=
  match a.station.state with
  | .suspended => .plain a.resume
  | .noForm | .active => .plain a

/-! ## An order at the stations of its set (R134, R135) -/

/-- The event flags of station `i`. -/
def State.flagsOf (s : State) (i : StationId) : BitVec 8 := s.events.stationFlags[i.val]

/-- An order taken at station `i`: a refusal leaves the station as it was (R134). -/
def State.order (s : State) (i : StationId) (f : Act → OrderResult) : State × StationOutcome :=
  match f (Act.start (s.station i)) with
  | .refused c => (s, .refused c)
  | .applied a late skipped cut => (s.event i fun _ => a, .applied late skipped cut)

/-- An order taken at each station of a list, in order, with the outcome list (R134). The order may read the
station's number and its event flags. -/
def State.orders (f : StationId → BitVec 8 → Act → OrderResult) :
    List StationId → State → State × List (StationId × StationOutcome)
  | [], s => (s, [])
  | i :: is, s =>
    let here := s.order i (f i (s.flagsOf i))
    let rest := State.orders f is here.1
    (rest.1, (i, here.2) :: rest.2)

end Sys2Proof.Machine
end

