-- ==== Sys2Proof/Machine/Wire.lean ====
section
/-! DEFINITION. The byte layouts of chapter 11 as the sender writes them: request payloads (section 11.3),
response payloads (11.4 to 11.6), host frames (11.2) and station line messages (11.7). -/

namespace Sys2Proof.Machine

/-! ## Forms of encoding (R190) -/

/-- A text: its length byte, then its characters (R190). -/
def textBytes (t : List Byte) : List Byte := byteOf t.length :: t

/-- A list: its count byte, then its members (R190). -/
def listBytes {α : Type} (enc : α → List Byte) (l : List α) : List Byte := byteOf l.length :: l.flatMap enc

/-- A flags or set byte from its bits, bit 0 first (R190). -/
def flagByte : List Bool → Nat
  | [] => 0
  | b :: bs => (if b then 1 else 0) + 2 * flagByte bs

/-- A 2-byte number. -/
def half (n : Nat) : List Byte := halfBytes (BitVec.ofNat 16 n)

/-- A byte 0 or 1. -/
def boolByte (b : Bool) : Byte := if b then 1#8 else 0#8

/-- A limit: 8 bytes, two's complement, high byte first (R190). -/
def limitBytes (v : Int) : List Byte :=
  let x := BitVec.ofInt 64 v
  [x.extractLsb' 56 8, x.extractLsb' 48 8, x.extractLsb' 40 8, x.extractLsb' 32 8, x.extractLsb' 24 8,
    x.extractLsb' 16 8, x.extractLsb' 8 8, x.extractLsb' 0 8]

/-! ## STAGE records (R192) -/

/-- A field definition. -/
def fieldBytes (f : FieldDef) : List Byte :=
  byteOf f.number :: byteOf f.page :: byteOf f.row :: byteOf f.column :: byteOf f.length ::
    byteOf (flagByte [f.kind == .fixed, f.skip, f.bright, f.hidden]) :: byteOf f.cls :: textBytes f.default

/-- The operation code of a rule. -/
def opCode : RuleOp → Byte
  | .product => 1#8
  | .percent => 2#8
  | .sum => 3#8
  | .difference => 4#8

/-- A computation rule. -/
def ruleBytes (r : Rule) : List Byte :=
  byteOf r.number :: opCode r.op ::
    (listBytes (fun n => [byteOf n]) r.sources ++
      [byteOf r.target, byteOf r.places, byteOf (flagByte [r.signed, r.report])])

/-- A form record. -/
def formBytes (d : FormDef) : List Byte :=
  byteOf d.pages :: byteOf (flagByte [d.cycle]) ::
    (halfBytes (d.shortKeys.setWidth 16) ++
      byteOf (d.initial.getD 0) :: (listBytes fieldBytes d.fields ++ listBytes ruleBytes d.rules))

/-- The kind code of a class. -/
def classKindCode : ClassKind → Byte
  | .text => 1#8
  | .alpha => 2#8
  | .digits => 3#8
  | .decimal => 4#8

/-- A class record. -/
def classBytes (c : ClassDef) : List Byte :=
  classKindCode c.kind :: byteOf c.places ::
    byteOf (flagByte [c.signed, c.mandatoryEntry, c.mandatoryFill, c.fold, c.low.isSome, c.high.isSome]) ::
    (limitBytes (c.low.getD 0) ++ limitBytes (c.high.getD 0))

/-- A route record. -/
def routeBytes (r : RouteDef) : List Byte :=
  byteOf (r.form.getD 0) :: (textBytes r.pattern ++
    [r.mask, byteOf r.length, byteOf r.strip, byteOf r.target])

/-- A staged entry: its key number, its type, and its record. -/
def stagedBytes {α : Type} (enc : α → List Byte) (e : Nat × Option α) : List Byte :=
  match e.2 with
  | none => [byteOf e.1, 0#8]
  | some r => byteOf e.1 :: 1#8 :: enc r

/-- A STAGE payload. -/
def loadBytes : StageLoad → List Byte
  | .forms es => 1#8 :: listBytes (stagedBytes formBytes) es
  | .classes es => 2#8 :: listBytes (stagedBytes classBytes) es
  | .routes es => 3#8 :: listBytes (stagedBytes routeBytes) es

/-! ## The other requests (R193, R194) -/

/-- The tone code, 0 for none. -/
def toneCode : Option Tone → Byte
  | none => 0#8
  | some .short => 1#8
  | some .long => 2#8

/-- The override code of an update. -/
def overrideCode : Option Override → Byte
  | none => 0#8
  | some ⟨.input, false⟩ => 1#8
  | some ⟨.input, true⟩ => 2#8
  | some ⟨.fixed, false⟩ => 3#8
  | some ⟨.fixed, true⟩ => 4#8

/-- One WRITE update. -/
def updateBytes (u : Update) : List Byte := byteOf u.field :: overrideCode u.override :: textBytes u.text

/-- A WRITE payload after its station set. -/
def writeBytes (w : WriteOrder) : List Byte :=
  byteOf (flagByte [w.eraseInput, w.clearMarks, w.resetTouched, w.page.isSome, w.cursor.isSome, w.restore,
      w.tone.isSome]) ::
    byteOf (w.page.getD 0) :: byteOf ((w.cursor.map Prod.fst).getD 0) ::
    byteOf ((w.cursor.map Prod.snd).getD 0) :: toneCode w.tone :: listBytes updateBytes w.updates

/-- The value byte of a conflict policy. -/
def policyByte : Policy → Byte
  | .keep => 0#8
  | .override => 1#8

/-- The value byte of a scan fallback. -/
def fallbackByte : Fallback → Byte
  | .reject => 0#8
  | .wedge => 1#8

/-- A STATION SET payload after its station set; the value byte of a setting not carried is 0. -/
def settingsChangeBytes (c : SettingsChange) : List Byte :=
  [byteOf (flagByte [c.typeahead.isSome, c.timeout.isSome, c.policy.isSome, c.fallback.isSome,
      c.scanner.isSome, c.tone.isSome]),
    (c.typeahead.map boolByte).getD 0#8, (c.timeout.map byteOf).getD 0#8, (c.policy.map policyByte).getD 0#8,
    (c.fallback.map fallbackByte).getD 0#8, (c.scanner.map boolByte).getD 0#8, (c.tone.map boolByte).getD 0#8]

/-- The 9-byte flag layout of CLEAR EVENTS (R194). -/
def flagLayout (part : BitVec 3) (flags : Vector (BitVec 8) 8) : List Byte := part.setWidth 8 :: flags.toList

/-- The kind code of a request (R191). -/
def kindCode : Request → Byte
  | .stage _ => 0x01#8
  | .discard => 0x02#8
  | .commit _ => 0x03#8
  | .lock _ => 0x04#8
  | .showForm _ _ _ => 0x10#8
  | .write _ _ => 0x11#8
  | .notice _ _ _ => 0x12#8
  | .hold _ => 0x13#8
  | .release _ => 0x14#8
  | .page _ _ => 0x15#8
  | .reread _ => 0x16#8
  | .stationSet _ _ => 0x17#8
  | .stationReset _ => 0x18#8
  | .suspend _ => 0x19#8
  | .resume _ => 0x1A#8
  | .pollScan _ => 0x20#8
  | .pollNext _ => 0x20#8
  | .status => 0x21#8
  | .stationStatus _ => 0x21#8
  | .enableEvents _ => 0x22#8
  | .clearEvents _ _ => 0x23#8
  | .identify => 0x24#8
  | .partReset => 0x25#8

/-- The payload of a request (R192 to R194). -/
def requestBytes : Request → List Byte
  | .stage load => loadBytes load
  | .discard => []
  | .commit check => halfBytes check
  | .lock kinds => [kinds.setWidth 8]
  | .showForm stations form hold => [stations, byteOf form, boolByte hold]
  | .write stations order => stations :: writeBytes order
  | .notice stations tone text => stations :: toneCode tone :: textBytes text
  | .hold stations => [stations]
  | .release stations => [stations]
  | .page stations page => [stations, byteOf page]
  | .reread stations => [stations]
  | .stationSet stations change => stations :: settingsChangeBytes change
  | .stationReset stations => [stations]
  | .suspend stations => [stations]
  | .resume stations => [stations]
  | .pollScan stations => [stations, 1#8]
  | .pollNext stations => [stations, 2#8]
  | .status => [0xFF#8]
  | .stationStatus station => [byteOf station.val]
  | .identify => []
  | .enableEvents enables => halfBytes (enables.setWidth 16)
  | .clearEvents part flags => flagLayout part flags
  | .partReset => []

/-! ## Host frames (R191) -/

/-- The check of the bytes from kind through payload: the two's complement of their sum (R171). -/
def checkOf (bytes : List Byte) : Half := -(byteSum bytes)

/-- A host frame after its SYNC byte. -/
def frameBody (kind tag : Byte) (payload : List Byte) : List Byte :=
  kind :: tag :: (half payload.length ++ payload)

/-- A host frame as it travels: SYNC, kind, tag, length, payload, check (R191). -/
def frameBytes (kind tag : Byte) (payload : List Byte) : List Byte :=
  0x5A#8 :: (frameBody kind tag payload ++ halfBytes (checkOf (frameBody kind tag payload)))

/-! ## Responses (R195 to R198) -/

/-- The code of a refusal (R195). -/
def refuseCode : RefuseCode → Byte
  | .format => 0x01#8
  | .emptySet => 0x02#8
  | .length => 0x03#8
  | .locked => 0x04#8
  | .full => 0x05#8
  | .noStage => 0x06#8
  | .check => 0x07#8
  | .busy => 0x0A#8
  | .noForm => 0x0B#8
  | .suspended => 0x0C#8
  | .pending => 0x0D#8
  | .badPage => 0x0E#8
  | .badField => 0x0F#8

/-- The code of a table (R195). -/
def tableCode : TableKind → Byte
  | .form => 1#8
  | .cls => 2#8
  | .route => 3#8

/-- The code of an INVALID cause (R195). The table of R195 gives CLASS none: its code is a free value
(log 21). -/
def causeCode : Cause → Byte
  | .classDef => 1#8
  | .dupField => 2#8
  | .dupRule => 3#8
  | .initial => 4#8
  | .page => 5#8
  | .place => 6#8
  | .overlap => 7#8
  | .attr => 8#8
  | .cls => Config.classCauseCode
  | .width => 9#8
  | .default => 10#8
  | .source => 11#8
  | .target => 12#8
  | .dupTarget => 13#8
  | .cycle => 14#8
  | .formRef => 15#8
  | .routeField => 16#8

/-- What follows the kind byte of a REFUSE (R195). -/
def refuseBytes : RefuseReason → List Byte
  | .code c => [refuseCode c]
  | .invalid o => [0x08#8, tableCode o.table, byteOf o.entry, causeCode o.cause, byteOf o.item]
  | .capacity total => 0x09#8 :: half total

/-- The reason code of a skipped update (R195). -/
def skipCode : SkipReason → Byte
  | .unknown => 1#8
  | .computed => 2#8
  | .kept => 3#8

/-- A member of an outcome list (R195). -/
def outcomeBytes (e : StationId × StationOutcome) : List Byte :=
  match e.2 with
  | .refused c => [byteOf e.1.val, refuseCode c]
  | .applied late skipped cut =>
    byteOf e.1.val :: 0x00#8 :: boolByte late ::
      (listBytes (fun k => [byteOf k.1, skipCode k.2]) skipped ++ listBytes (fun n => [byteOf n]) cut)

/-- The code of a station state (R196). -/
def stateCode : StationState → Byte
  | .noForm => 0#8
  | .active => 1#8
  | .suspended => 2#8

/-- The code of a keyboard state (R196). -/
def keyboardCode : Keyboard → Byte
  | .free => 0#8
  | .inhibited _ => 1#8
  | .waiting => 2#8
  | .timedOut => 3#8
  | .held => 4#8

/-- The code of the INHIBITED reason, 0 when not INHIBITED (R196). -/
def reasonCode : Keyboard → Byte
  | .inhibited .prot => 1#8
  | .inhibited .char => 2#8
  | .inhibited .full => 3#8
  | .inhibited .format => 4#8
  | .inhibited .range => 5#8
  | .inhibited .mand => 6#8
  | .inhibited .route => 7#8
  | .inhibited .pend => 8#8
  | .free | .waiting | .timedOut | .held => 0#8

/-- The code of a scanner state (R196). -/
def scannerCode : ScannerState → Byte
  | .enabled => 0#8
  | .suspended => 1#8
  | .disabled => 2#8

/-- The code of a poll state (R196). -/
def pollCode : PollState → Byte
  | .idle => 0#8
  | .scanning => 1#8

/-- The six setting bytes in the order of STATION SET (R197). -/
def settingsBytes (s : Settings) : List Byte :=
  [boolByte s.typeahead, byteOf s.timeout, policyByte s.policy, fallbackByte s.fallback, boolByte s.scanner,
    boolByte s.tone]

/-- A part-wide STATUS content (R197). -/
def statusBytes (r : StatusReport) : List Byte :=
  flagLayout r.partFlags r.stationFlags ++ halfBytes (r.enables.setWidth 16) ++
    [boolByte r.holdOff, boolByte r.srq] ++ half r.checkErrors ++ half r.lengthErrors ++ half r.overruns ++
    [byteOf r.outstanding, pollCode r.polling, r.group, byteOf r.pointer.val] ++ half r.generation ++
    [boolByte r.filling, byteOf r.staged, r.locks.setWidth 8, byteOf r.forms, byteOf r.classes,
      byteOf r.routes] ++
    r.stations.flatMap fun st => [stateCode st.1, boolByte st.2]

/-- The instance items of a station STATUS (R197). -/
def formReportBytes : Option FormReport → List Byte
  | none => []
  | some f =>
    byteOf f.number :: (half f.generation ++ [byteOf f.page, byteOf f.pages, byteOf f.row, byteOf f.column])

/-- The content of a STATUS for one station (R197). "When bit 5 is set, the station flags byte is followed by
the instance items": the station's event flags byte, which ends the layout. -/
def stationReportBytes (r : StationReport) : List Byte :=
  [byteOf r.station.val, stateCode r.state, keyboardCode r.keyboard, reasonCode r.keyboard,
    byteOf (flagByte [r.settling, r.insert, r.occupied, r.attention, r.timerRunning, r.form.isSome]),
    byteOf r.items] ++ settingsBytes r.settings ++ [boolByte r.up] ++ half r.parityErrors ++
    half r.framingErrors ++ [byteOf r.scanErrors, scannerCode r.scanner, byteOf r.spans,
      boolByte r.repaintAll, r.flags] ++ formReportBytes r.form

/-- The identity content: part code, revision and the capacities (R183, R195). -/
def identityBytes : List Byte :=
  textBytes (textOf ['N', '8', 'F']) ++ [byteOf 1, byteOf Config.stations, byteOf Config.forms, byteOf Config.pages,
    byteOf Config.fieldsPerForm] ++ half Config.fieldCapacity ++ [byteOf Config.classes,
    byteOf Config.rulesPerForm, byteOf Config.routes, byteOf Config.stagingCapacity,
    byteOf Config.outstandingRequests] ++ half Config.payloadCapacity ++ [byteOf Config.updatesPerWrite]

/-- The payload of an ACCEPT: the kind code of the request, then its content (R195). -/
def acceptBytes : AcceptBody → List Byte
  | .stage held => [0x01#8, byteOf held]
  | .discard removed => [0x02#8, byteOf removed]
  | .commit generation forms classes routes =>
    0x03#8 :: (half generation ++ [byteOf forms, byteOf classes, byteOf routes])
  | .lock kinds => [0x04#8, kinds.setWidth 8]
  | .outcomes kind list => kind :: listBytes outcomeBytes list
  | .enableEvents enables => 0x22#8 :: halfBytes (enables.setWidth 16)
  | .clearEvents part flags => 0x23#8 :: flagLayout part flags
  | .identify => 0x24#8 :: identityBytes
  | .status report => 0x21#8 :: statusBytes report
  | .stationStatus report => 0x21#8 :: stationReportBytes report
  | .partReset => [0x25#8]

/-- The code of an intent (R198). -/
def intentCode : Intent → Byte
  | .key .enter => 0x01#8
  | .key (.function n) => byteOf (0x11 + n.val)
  | .key .cancel => 0x20#8
  | .key .clear => 0x21#8
  | .reread => 0x30#8

/-- The code of a result state (R198). -/
def resultCode : Result → Byte
  | .value _ => 1#8
  | .blank => 2#8
  | .overflow => 3#8
  | .undefined => 4#8

/-- An entry record (R198). -/
def entryBytes (e : Entry) : List Byte :=
  [intentCode e.intent, byteOf e.page, byteOf e.row, byteOf e.column, e.visited.setWidth 8] ++
    half e.generation ++ listBytes (fun m => byteOf m.1 :: textBytes m.2) e.touched ++
    listBytes (fun m => byteOf m.field :: resultCode m.result :: textBytes m.text) e.computed

/-- The payload of a response (R195, R198). -/
def responseBytes : Response → List Byte
  | .accept body => acceptBytes body
  | .refuse kind reason => kind :: refuseBytes reason
  | .entry station attention entry =>
    byteOf station.val :: byteOf (flagByte [attention, entry.isSome]) ::
      (match entry with | some e => entryBytes e | none => [])
  | .pollEnd count => [byteOf count]

/-- The kind code of a response (R191). -/
def responseKind : Response → Byte
  | .accept _ => 0x80#8
  | .refuse _ _ => 0x81#8
  | .entry _ _ _ => 0x82#8
  | .pollEnd _ => 0x83#8

/-- A response frame as it goes out on HTXD (R191). -/
def TxFrame.bytes (f : TxFrame) : List Byte :=
  frameBytes (responseKind f.response) f.tag (responseBytes f.response)

/-! ## Station line messages (R199) -/

/-- The code of a rendition. -/
def renditionCode : Rendition → Byte
  | .normal => 0#8
  | .underline => 1#8
  | .bright => 2#8
  | .reverse => 3#8

/-- The type and the body of a downstream message. -/
def messageParts : Message → Byte × List Byte
  | .paint row column text runs =>
    (0x11#8, byteOf row :: byteOf column ::
      (textBytes text ++ listBytes (fun r => [renditionCode r.1, byteOf r.2]) runs))
  | .erase => (0x12#8, [])
  | .cursor row column => (0x13#8, [byteOf row, byteOf column])
  | .tone t => (0x14#8, [toneCode (some t)])

/-- A station line message in its envelope (R199). -/
def envelope (type : Byte) (body : List Byte) : List Byte :=
  0x1E#8 :: type :: byteOf body.length :: (body ++ [0x1F#8])

/-- A downstream message as it goes out on the station line (R199). -/
def Message.bytes (m : Message) : List Byte := envelope (messageParts m).1 (messageParts m).2

end Sys2Proof.Machine
end

