-- ==== Sys2Proof/Machine/HostLine.lean ====
section
/-! DEFINITION. The Host Line Controller (chapter 10): the transmit queue, polling, status, the acceptance
and the serving of a request, and the receive framer. -/

namespace Sys2Proof.Machine

/-! ## The transmit side (R175) -/

/-- The part with its host line changed. -/
def State.modHost (s : State) (f : HostLine → HostLine) : State := { s with host := f s.host }

/-- The frame at the queue's head starts when no frame is in transmission (R175). -/
def HostLine.startTx (h : HostLine) : HostLine :=
  match h.inTx, h.txQueue with
  | none, f :: rest => { h with inTx := some f, txQueue := rest }
  | _, _ => h

/-- Frames queued, in order (R175). -/
def HostLine.send (h : HostLine) (fs : List TxFrame) : HostLine :=
  ({ h with txQueue := h.txQueue ++ fs } : HostLine).startTx

/-- The one frame that answers a request. -/
def answerFrame (tag : Byte) (r : Response) : TxFrame where
  tag := tag
  response := r
  last := true
  counted := true
  endsScan := false

/-- A request answered by one frame (R175). -/
def State.respond (s : State) (tag : Byte) (r : Response) : State := s.modHost (·.send [answerFrame tag r])

/-- The end of a frame's transmission: the last frame of a counted request lowers the outstanding count,
and a counted SCAN's POLL-END returns polling to IDLE (R175, R177, R184). -/
def HostLine.finishFrame (h : HostLine) (f : TxFrame) : HostLine :=
  { h with
    inTx := none
    outstanding := if f.counted && f.last then h.outstanding - 1 else h.outstanding
    polling := if f.counted && f.endsScan then .idle else h.polling }

/-! ## Polling (R177 to R180) -/

/-- A station holds something to collect: an entry or attention (R178). -/
def Station.waits (st : Station) : Bool := st.slot.isSome || st.attention

/-- The response that collects a station (R180). -/
def entryResponse (i : StationId) (st : Station) : Response := .entry i st.attention st.slot

/-- A station collected, at its composer: the slot emptied and the attention flag cleared (R180). -/
def Act.collect (a : Act) : Act := { a with station := { a.station with slot := none, attention := false } }

/-- A station collected, and its ENTRY-READY and ATTENTION flags cleared (R180). -/
def State.collect (s : State) (i : StationId) : State :=
  let t := s.event i Act.collect
  { t with events := t.events.clearStation i 0b00000011#8 }

/-- The lowest station of a set, 0 for an empty one. -/
def lowest (set : StationSet) : StationId := (members set).headD 0

/-- The group set of a POLL recorded (R177 step 2). -/
def HostLine.setGroup (h : HostLine) (set : StationSet) : HostLine :=
  { h with pointer := if set = h.group then h.pointer else lowest set, group := set }

/-- The frames of a SCAN over the stations of its snapshot (R178). -/
def scanFrames (tag : Byte) (s : State) (snapshot : List StationId) : List TxFrame :=
  (snapshot.map fun i =>
    ({ tag := tag, response := entryResponse i (s.station i), last := false, counted := true,
       endsScan := false } : TxFrame)) ++
    [{ tag := tag, response := .pollEnd snapshot.length, last := true, counted := true, endsScan := true }]

/-- POLL SCAN carried out (R178). -/
def State.pollScan (s : State) (tag : Byte) (set : StationSet) : State :=
  let snapshot := (members set).filter fun i => (s.station i).waits
  let t := snapshot.foldl State.collect s
  t.modHost fun h => ({ h with polling := .scanning } : HostLine).send (scanFrames tag s snapshot)

/-- The stations of a set in the circle a NEXT examines: those above the pointer, then the others (R179). -/
def circle (pointer : StationId) (set : StationSet) : List StationId :=
  (members set).filter (fun i => decide (pointer < i)) ++ (members set).filter fun i => decide (i ≤ pointer)

/-- POLL NEXT carried out (R179). -/
def State.pollNext (s : State) (tag : Byte) (set : StationSet) : State :=
  match (circle s.host.pointer set).find? fun i => (s.station i).waits with
  | some i =>
    ((s.collect i).modHost fun h => { h with pointer := i }).respond tag (entryResponse i (s.station i))
  | none => s.respond tag (.pollEnd 0)

/-- A POLL: refused BUSY while SCANNING, else its set recorded and its mode carried out (R177). -/
def State.poll (s : State) (tag : Byte) (set : StationSet) (carryOut : State → State) : State :=
  match s.host.polling with
  | .scanning => s.respond tag (.refuse 0x20#8 (.code .busy))
  | .idle => carryOut (s.modHost (·.setGroup set))

/-! ## Status (R181, R182) -/

/-- A part-wide STATUS as it stands (R181). -/
def State.statusReport (s : State) : StatusReport where
  partFlags := s.events.partFlags
  stationFlags := s.events.stationFlags
  enables := s.events.enables
  holdOff := s.events.holdOff.isSome
  srq := s.events.srq
  checkErrors := s.host.checkErrors
  lengthErrors := s.host.lengthErrors
  overruns := s.host.overruns
  outstanding := s.host.outstanding
  polling := s.host.polling
  group := s.host.group
  pointer := s.host.pointer
  generation := s.library.generation
  filling := s.library.filling
  staged := s.library.staged
  locks := s.library.locks
  forms := s.library.forms.length
  classes := s.library.classes.length
  routes := s.library.routes.length
  stations := s.stations.toList.map fun st => (st.state, st.line.up)

/-- The instance items of a station STATUS (R182). -/
def FormInstance.report (x : FormInstance) : FormReport where
  number := x.number
  generation := x.generation
  page := x.page
  pages := x.defn.pages
  row := rowOf x.cursor
  column := columnOf x.cursor

/-- A STATUS for one station as it stands (R182). -/
def State.stationReport (s : State) (i : StationId) : StationReport :=
  let st := s.station i
  { station := i
    state := st.state
    keyboard := st.keyboard
    settling := st.form.any FormInstance.settling
    insert := st.form.any FormInstance.insert
    occupied := st.slot.isSome
    attention := st.attention
    timerRunning := st.timer.isSome
    form := st.form.map FormInstance.report
    items := st.queue.length
    settings := st.settings
    up := st.line.up
    parityErrors := st.line.parityErrors
    framingErrors := st.line.framingErrors
    scanErrors := st.line.scanErrors
    scanner := st.line.scanner
    spans := st.line.paintQueue.length
    repaintAll := st.line.repaintAll
    flags := s.flagsOf i }

/-! ## PART RESET (R184) -/

/-- PART RESET at the host line: the queued frames are removed, the frame in transmission completes
uncounted, polling is IDLE and this request alone is outstanding (R184). -/
def HostLine.partReset (h : HostLine) : HostLine :=
  { h with
    txQueue := []
    inTx := h.inTx.map fun f => { f with counted := false }
    polling := .idle
    outstanding := 1 }

/-- PART RESET in every block, and its ACCEPT (R184). -/
def State.resetPart (s : State) (tag : Byte) : State :=
  let t := allStations.foldl (fun t i => t.event i Act.partReset) s
  let u := { t with
    library := t.library.emptyStaging
    events := { t.events.clearAll with holdOff := none }
    host := t.host.partReset }
  u.respond tag (.accept .partReset)

/-! ## Serving a request (R173 to R176) -/

/-- A request of the library: its answer queued, the library as it left it. -/
def State.serveLibrary (s : State) (tag : Byte) (r : Library × Response) : State :=
  ({ s with library := r.1 } : State).respond tag r.2

/-- A station order carried out at each station of its set, and its ACCEPT (R134). -/
def State.serveOrder (s : State) (tag kind : Byte) (set : StationSet)
    (f : StationId → BitVec 8 → Act → OrderResult) : State :=
  let r := s.orders f (members set)
  r.1.respond tag (.accept (.outcomes kind r.2))

/-- STATION RESET: the order, and every event flag of each station of the set cleared (R151). -/
def State.serveStationReset (s : State) (tag : Byte) (set : StationSet) : State :=
  let r := s.orders (fun _ _ a => .plain a.stationReset) (members set)
  let t := (members set).foldl (fun t i => { t with events := t.events.clearStation i 0xFF#8 }) r.1
  t.respond tag (.accept (.outcomes 0x18#8 r.2))

/-- A request carried out by the block that owns it (R173 step 5, R176). `payload` is the payload it came
in. -/
def State.serve (s : State) (tag : Byte) (payload : List Byte) : Request → State
  | .stage load => s.serveLibrary tag (s.library.stage load payload)
  | .discard => s.serveLibrary tag s.library.discard
  | .commit check => s.serveLibrary tag (s.library.commit check)
  | .lock kinds => s.serveLibrary tag (s.library.lock kinds)
  | .showForm set form hold => s.serveOrder tag 0x10#8 set fun _ _ => showOrder s.library form hold
  | .write set order => s.serveOrder tag 0x11#8 set fun _ _ => writeOrder order
  | .notice set tone text => s.serveOrder tag 0x12#8 set fun _ _ => noticeOrder tone text
  | .hold set => s.serveOrder tag 0x13#8 set fun _ _ => holdOrder
  | .release set => s.serveOrder tag 0x14#8 set fun _ _ => releaseOrder
  | .page set page => s.serveOrder tag 0x15#8 set fun _ _ => pageOrder page
  | .reread set => s.serveOrder tag 0x16#8 set fun i _ => rereadOrder i
  | .stationSet set change => s.serveOrder tag 0x17#8 set fun _ _ => stationSetOrder change
  | .stationReset set => s.serveStationReset tag set
  | .suspend set => s.serveOrder tag 0x19#8 set fun _ flags => suspendOrder flags
  | .resume set => s.serveOrder tag 0x1A#8 set fun _ _ => resumeOrder
  | .pollScan set => s.poll tag set fun t => t.pollScan tag set
  | .pollNext set => s.poll tag set fun t => t.pollNext tag set
  | .status => s.respond tag (.accept (.status s.statusReport))
  | .stationStatus i => s.respond tag (.accept (.stationStatus (s.stationReport i)))
  | .identify => s.respond tag (.accept .identify)
  | .enableEvents enables =>
    let e := s.events.enable enables
    ({ s with events := e } : State).respond tag (.accept (.enableEvents e.enables))
  | .clearEvents part flags =>
    let e := s.events.clear part flags
    ({ s with events := e } : State).respond tag (.accept (.clearEvents e.partFlags e.stationFlags))
  | .partReset => s.resetPart tag

/-- The station set of a station-addressed order, REREAD or POLL (R173 step 3). -/
def stationsOf : Request → Option StationSet
  | .showForm set _ _ => some set
  | .write set _ => some set
  | .notice set _ _ => some set
  | .hold set => some set
  | .release set => some set
  | .page set _ => some set
  | .reread set => some set
  | .stationSet set _ => some set
  | .stationReset set => some set
  | .suspend set => some set
  | .resume set => some set
  | .pollScan set => some set
  | .pollNext set => some set
  | .stage _ | .discard | .commit _ | .lock _ | .status | .stationStatus _ | .identify | .enableEvents _
  | .clearEvents _ _ | .partReset => none

/-- A length that decodes but exceeds what the part admits (R173 step 4). -/
def overLength : Request → Bool
  | .write _ w =>
    decide (Config.updatesPerWrite < w.updates.length) ||
      w.updates.any fun u => decide (Config.updateText < u.text.length)
  | .notice _ _ text => decide (Config.noticeText < text.length)
  | _ => false

/-- Why a decoded request is refused before it is carried out: R173 steps 3 and 4. -/
def earlyRefusal (r : Request) : Option RefuseCode :=
  if stationsOf r = some 0#8 then some .emptySet else if overLength r then some .length else none

/-- An accepted request decided by the first of R173's steps that fails. `kind` is the kind byte as it was
received, `request` what the payload decodes to. -/
def State.decide (s : State) (tag kind : Byte) (payload : List Byte) (request : Option Request) : State :=
  match request with
  | none => s.respond tag (.refuse kind (.code .format))
  | some r =>
    match earlyRefusal r with
    | some c => s.respond tag (.refuse kind (.code c))
    | none => s.serve tag payload r

/-- A request accepted: the outstanding count rises by 1 (R172). -/
def State.countIn (s : State) : State := s.modHost fun h => { h with outstanding := h.outstanding + 1 }

/-- A frame that passed its check while 4 requests are outstanding: the overrun counter raised and HOST-OVERRUN
raised (R172). -/
def State.overrun (s : State) : State :=
  (s.modHost fun h => { h with overruns := bump h.overruns }).raisePart .hostOverrun

/-- A frame that has passed its check: accepted and taken while fewer than 4 requests are outstanding, else
discarded as an overrun (R172). -/
def State.accept (s : State) (tag kind : Byte) (payload : List Byte) (request : Option Request) : State :=
  if s.host.outstanding < Config.outstandingRequests then s.countIn.decide tag kind payload request else s.overrun

/-- A frame whose check fails: the check-error counter raised and FRAME-ERROR raised (R171). -/
def State.checkError (s : State) : State :=
  (s.modHost fun h => { h with checkErrors := bump h.checkErrors }).raisePart .frameError

/-- A frame whose length exceeds 1024: the length-error counter raised and FRAME-ERROR raised (R170). -/
def State.lengthError (s : State) : State :=
  (s.modHost fun h => { h with lengthErrors := bump h.lengthErrors }).raisePart .frameError

/-- A request of the table's request rows as it arrives, its frame having passed its check (R172, log 1). Its
payload is the one chapter 11 lays out; one over 1024 bytes fails the framer's length test (R170, R191), and
one outside its ranges does not decode (R173 step 2, log 14). -/
def State.request (s : State) (tag : Byte) (r : Request) : State :=
  if Config.payloadCapacity < (requestBytes r).length then s.lengthError
  else s.accept tag (kindCode r) (requestBytes r) (if requestValid r then some r else none)

/-! ## The receive framer (R170, R171) -/

/-- The framer after a length of 0 to 1024 has been recorded (R170). -/
def framerAfterLength (sum : Half) (kind tag : Byte) (length : Nat) : Framer :=
  if length = 0 then .check sum kind tag [] none else .payload sum kind tag length []

/-- The second length byte: the length is tested (R170). -/
def State.lengthByte (s : State) (sum : Half) (kind tag hi lo : Byte) : State :=
  if (halfOf hi lo).toNat ≤ Config.payloadCapacity then
    s.modHost fun h => { h with framer := framerAfterLength sum kind tag (halfOf hi lo).toNat }
  else (s.modHost fun h => { h with framer := .hunt }).lengthError

/-- The second check byte: the frame arrives and its check is tested (R171). -/
def State.frameArrives (s : State) (sum : Half) (kind tag : Byte) (payload : List Byte) (hi lo : Byte) : State :=
  let t := s.modHost fun h => { h with framer := .hunt }
  if sum + halfOf hi lo = 0#16 then t.accept tag kind payload (decodeRequest kind payload)
  else t.checkError

/-- One byte received on the host line, taken in the framer's state (R170). -/
def State.hostByte (s : State) (b : Byte) : State :=
  match s.host.framer with
  | .hunt => if b = 0x5A#8 then s.modHost fun h => { h with framer := .header 0#16 [] } else s
  | .header sum recorded =>
    match recorded with
    | [kind, tag, hi] => s.lengthByte (sum + b.setWidth 16) kind tag hi b
    | _ => s.modHost fun h => { h with framer := .header (sum + b.setWidth 16) (recorded ++ [b]) }
  | .payload sum kind tag length recorded =>
    if recorded.length + 1 < length then
      s.modHost fun h => { h with framer := .payload (sum + b.setWidth 16) kind tag length (recorded ++ [b]) }
    else
      s.modHost fun h => { h with framer := .check (sum + b.setWidth 16) kind tag (recorded ++ [b]) none }
  | .check sum kind tag payload first =>
    match first with
    | none => s.modHost fun h => { h with framer := .check sum kind tag payload (some b) }
    | some hi => s.frameArrives sum kind tag payload hi b

end Sys2Proof.Machine
end

