-- ==== Sys2Proof/Machine/HostEvents.lean ====
section
/-! DEFINITION. The steps of the table that are not requests and not a station's: power-on, the bytes of the
host line, the end of a response frame's transmission, and the hold-off's expiry. -/

namespace Sys2Proof.Machine

/-- POWER_ON: every block in its power-on state (R185). What stands in the queue of commands is outside the
part and stays (log 6). -/
def execPowerOn (s : State) : Host.Outcome State Fault Refusal := .next { State.reset with pending := s.pending }

/-- REQUEST_FRAME: the byte that ends a host frame, taken by the receive framer (R170, R171, log 2). -/
def execRequestFrame (byte : Byte) (s : State) : Host.Outcome State Fault Refusal := (s.hostByte byte).done

/-- FRAME_LENGTH_ERROR: the second length byte of a frame too long, taken by the receive framer (R170,
log 2). -/
def execFrameLengthError (byte : Byte) (s : State) : Host.Outcome State Fault Refusal := (s.hostByte byte).done

/-- HOST_LINE_BYTE_RECEIVED: any other byte, taken by the receive framer (R170, log 2). -/
def execHostLineByteReceived (byte : Byte) (s : State) : Host.Outcome State Fault Refusal :=
  (s.hostByte byte).done

/-- RESPONSE_TRANSMISSION_COMPLETE; with no frame in transmission there is none (R175, log 4). -/
def execResponseTransmissionComplete (s : State) : Host.Outcome State Fault Refusal :=
  match s.host.inTx with
  | some f => (s.modHost fun h => (h.finishFrame f).startTx).done
  | none => .next s

/-- HOLD_OFF_EXPIRY; a stopped timer has none (R188, log 4). -/
def execHoldOffExpiry (s : State) : Host.Outcome State Fault Refusal :=
  if s.events.holdOff.isSome then ({ s with events := { s.events with holdOff := none } } : State).done
  else .next s

end Sys2Proof.Machine
end

