-- ==== Sys2Proof/Machine/Requests.lean ====
section
/-! DEFINITION. The request rows of the table: each is its request as it arrives in a frame that passed its
check, from the test of R172 on (log 1). -/

namespace Sys2Proof.Machine

/-- STAGE (R11). -/
def execStage (tag : Byte) (load : StageLoad) (s : State) : Host.Outcome State Fault Refusal :=
  (s.request tag (.stage load)).done

/-- DISCARD (R13). -/
def execDiscard (tag : Byte) (s : State) : Host.Outcome State Fault Refusal :=
  (s.request tag .discard).done

/-- COMMIT (R14). -/
def execCommit (tag : Byte) (check : Half) (s : State) : Host.Outcome State Fault Refusal :=
  (s.request tag (.commit check)).done

/-- LOCK (R24). -/
def execLock (tag : Byte) (kinds : BitVec 3) (s : State) : Host.Outcome State Fault Refusal :=
  (s.request tag (.lock kinds)).done

/-- SHOW (R36, R137). -/
def execShow (tag : Byte) (stations : StationSet) (form : Nat) (hold : Bool) (s : State) :
    Host.Outcome State Fault Refusal :=
  (s.request tag (.showForm stations form hold)).done

/-- WRITE (R138 to R146). -/
def execWrite (tag : Byte) (stations : StationSet) (order : WriteOrder) (s : State) :
    Host.Outcome State Fault Refusal :=
  (s.request tag (.write stations order)).done

/-- NOTICE (R147). -/
def execNotice (tag : Byte) (stations : StationSet) (tone : Option Tone) (text : List Byte) (s : State) :
    Host.Outcome State Fault Refusal :=
  (s.request tag (.notice stations tone text)).done

/-- HOLD (R148). -/
def execHold (tag : Byte) (stations : StationSet) (s : State) : Host.Outcome State Fault Refusal :=
  (s.request tag (.hold stations)).done

/-- RELEASE (R148). -/
def execRelease (tag : Byte) (stations : StationSet) (s : State) : Host.Outcome State Fault Refusal :=
  (s.request tag (.release stations)).done

/-- PAGE (R149). -/
def execPage (tag : Byte) (stations : StationSet) (page : Nat) (s : State) :
    Host.Outcome State Fault Refusal :=
  (s.request tag (.page stations page)).done

/-- REREAD (R131). -/
def execReread (tag : Byte) (stations : StationSet) (s : State) : Host.Outcome State Fault Refusal :=
  (s.request tag (.reread stations)).done

/-- STATION SET (R150). -/
def execStationSet (tag : Byte) (stations : StationSet) (change : SettingsChange) (s : State) :
    Host.Outcome State Fault Refusal :=
  (s.request tag (.stationSet stations change)).done

/-- STATION RESET (R151). -/
def execStationReset (tag : Byte) (stations : StationSet) (s : State) : Host.Outcome State Fault Refusal :=
  (s.request tag (.stationReset stations)).done

/-- SUSPEND (R28, R152). -/
def execSuspend (tag : Byte) (stations : StationSet) (s : State) : Host.Outcome State Fault Refusal :=
  (s.request tag (.suspend stations)).done

/-- RESUME (R30, R153). -/
def execResume (tag : Byte) (stations : StationSet) (s : State) : Host.Outcome State Fault Refusal :=
  (s.request tag (.resume stations)).done

/-- POLL with mode SCAN (R177, R178). -/
def execPollScan (tag : Byte) (stations : StationSet) (s : State) : Host.Outcome State Fault Refusal :=
  (s.request tag (.pollScan stations)).done

/-- POLL with mode NEXT (R177, R179). -/
def execPollNext (tag : Byte) (stations : StationSet) (s : State) : Host.Outcome State Fault Refusal :=
  (s.request tag (.pollNext stations)).done

/-- STATUS, part-wide (R181). -/
def execStatus (tag : Byte) (s : State) : Host.Outcome State Fault Refusal :=
  (s.request tag .status).done

/-- STATUS for one station (R182). -/
def execStationStatus (tag : Byte) (station : StationId) (s : State) : Host.Outcome State Fault Refusal :=
  (s.request tag (.stationStatus station)).done

/-- IDENTIFY (R183). -/
def execIdentify (tag : Byte) (s : State) : Host.Outcome State Fault Refusal :=
  (s.request tag .identify).done

/-- ENABLE EVENTS (R187). -/
def execEnableEvents (tag : Byte) (enables : BitVec 11) (s : State) : Host.Outcome State Fault Refusal :=
  (s.request tag (.enableEvents enables)).done

/-- CLEAR EVENTS (R188). -/
def execClearEvents (tag : Byte) (part : BitVec 3) (flags : Vector (BitVec 8) 8) (s : State) :
    Host.Outcome State Fault Refusal :=
  (s.request tag (.clearEvents part flags)).done

/-- PART RESET (R184). -/
def execPartReset (tag : Byte) (s : State) : Host.Outcome State Fault Refusal :=
  (s.request tag .partReset).done

end Sys2Proof.Machine
end

