-- ==== Sys2Proof/Machine/Scanning.lean ====
section
/-! DEFINITION. Scanner input and routing (chapter 6): the Scan Router, routed placement, the fallbacks, and
the step in which a SCAN item is taken. -/

namespace Sys2Proof.Machine

/-! ## The Scan Router (R107, R108) -/

/-- Every must-match position of the pattern holds the scan's character; positions counted from `i`
(R107 test 4). -/
def patternMatches (mask : BitVec 8) : Nat → List Byte → List Byte → Bool
  | _, [], _ => true
  | i, p :: ps, c :: cs => (!mask.getLsbD i || p == c) && patternMatches mask (i + 1) ps cs
  | _, _ :: _, [] => false

/-- A route matches a scan for an instance of form `form` (R107). -/
def routeMatches (form : Nat) (text : List Byte) (r : RouteDef) : Bool :=
  r.form.all (· == form) && (r.length == 0 || r.length == text.length) &&
    decide (r.pattern.length ≤ text.length) && patternMatches r.mask 0 r.pattern text

/-- The first route in table order that matches (R107). -/
def routeOf (routes : Table RouteDef) (form : Nat) (text : List Byte) : Option RouteDef :=
  (routes.find? fun e => routeMatches form text e.2).map Prod.snd

/-- The target field of a matched route in the asking instance, when it is usable (R108, R109). -/
def FormInstance.targetOf (x : FormInstance) (r : RouteDef) : Option FieldRec :=
  if r.target = 0 then x.inputAtCursor
  else
    match x.field? r.target with
    | some f => if f.isInput then some f else none
    | none => none

/-- The route's usable target and the stripped text; none when the scan is not routed (R109). -/
def FormInstance.routed (x : FormInstance) (routes : Table RouteDef) (text : List Byte) :
    Option (FieldRec × List Byte) :=
  match routeOf routes x.number text with
  | some r => (x.targetOf r).map fun f => (f, text.drop r.strip)
  | none => none

/-! ## Routed placement (R110, R111) -/

/-- The event on the target's page: a page switch when it is not the current page (R110). The instance is
the one after the switch. -/
def Act.toPage (a : Act) (x : FormInstance) (p : Nat) : Act × FormInstance :=
  if p = x.page then (a, x)
  else
    let y := (x.turnTo p).settle a.station.line.up
    ((a.putForm y).askRepaint, y)

/-- The text placed in the target, the cursor at the target's start, and a TAB with its exit check (R111). -/
def Act.placeScan (a : Act) (x : FormInstance) (f : FieldRec) (text : List Byte) : Act :=
  let y := x.edit f.defn.number (padCut f.defn.length text) fun _ => none
  let z := { y with cursor := f.start }
  (a.putForm z).move z (z.tabFrom f.start)

/-- A routed scan: the guarded departure, the page switch, the placement (R110, R111). -/
def Act.route (a : Act) (x : FormInstance) (f : FieldRec) (text : List Byte) : Act :=
  match x.departure fun g => g.defn.number == f.defn.number with
  | some (n, m) => a.failCheck x n m
  | none => (a.toPage x f.defn.page).1.placeScan (a.toPage x f.defn.page).2 f text

/-! ## The fallbacks (R112, R113) -/

/-- WEDGE: the characters entered at the cursor one after another until one leaves the keyboard INHIBITED
(R113). -/
def Act.wedge (a : Act) : List Byte → Act
  | [] => a
  | c :: cs =>
    match a.station.keyboard, a.station.form with
    | .free, some x => (a.enterChar x c).wedge cs
    | _, _ => a

/-- A scan that is not routed (R112, R113). -/
def Act.fallback (a : Act) (text : List Byte) : Act :=
  match a.station.settings.fallback with
  | .reject => a.inhibit .route
  | .wedge => a.wedge text

/-- A SCAN item taken in FREE (R109). -/
def Act.scanItem (a : Act) (routes : Table RouteDef) (x : FormInstance) (text : List Byte) : Act :=
  match x.routed routes text with
  | some (f, stripped) => a.route x f stripped
  | none => a.fallback text

/-! ## The step of the table -/

/-- SCAN_ITEM: the head item is a scan (R109). -/
def execScanItem (i : StationId) (s : State) : Host.Outcome State Fault Refusal :=
  s.take i (fun it => match it with | .scan _ => true | _ => false) fun it a x =>
    match it with
    | .scan text => a.scanItem s.library.routes x text
    | _ => a

end Sys2Proof.Machine
end

