-- ==== Sys2Proof/Machine/StationLine.lean ====
section
/-! DEFINITION. What arrives on a station line (sections 9.1 to 9.3): the reception of its bytes (section 11.7),
accepted and discarded messages, the scanner error counter (section 6.1), attention on arrival (R129), the line
going DOWN (R158), and the transmission-complete of a downstream message (R164, R166), with the steps of the
table for them. -/

namespace Sys2Proof.Machine

/-! ## Accepted messages (R155, R157, R159, R160) -/

/-- The station whose line unit has accepted a message, before the message is handed on: the silence timer
starts afresh, and on a line that comes UP the paint engine makes its first choice, the repaint of the whole
screen (R157, R159). -/
def Station.hear (st : Station) : Station :=
  { st with
    line := if st.line.up then st.line.hear else st.line.hear.engine st.image st.cursorShown }

/-- A message accepted: the line heard, with LINE-UP raised when it was DOWN (R157, R159). -/
def Act.hear (a : Act) : Act :=
  let b : Act := { a with station := a.station.hear }
  if a.station.line.up then b else b.raise .lineUp

/-- Whether a SCAN message is counted: the scanner ENABLED, the station NO-FORM or ACTIVE (R104). -/
def Station.countsScans (st : Station) : Bool := st.line.scanner == .enabled && st.state != .suspended

/-- The event with the scanner error counter and the scanner state set. -/
def Act.setScanner (a : Act) (n : Nat) (sc : ScannerState) : Act :=
  { a with station := { a.station with line := { a.station.line with scanErrors := n, scanner := sc } } }

/-- A counted bad SCAN: the counter rises by 1, and at 32 the scanner is SUSPENDED and SCANNER-SUSPENDED
raised (R104). -/
def Act.badScan (a : Act) : Act :=
  if a.station.line.scanErrors + 1 < Config.scanErrorLimit then
    a.setScanner (a.station.line.scanErrors + 1) a.station.line.scanner
  else (a.setScanner Config.scanErrorLimit .suspended).raise .scannerSuspended

/-- A counted good SCAN: the counter falls by 1, staying at 0, and the item is handed to the composer
(R104, R105). -/
def Act.goodScan (a : Act) (text : List Byte) : Act :=
  (a.setScanner (a.station.line.scanErrors - 1) a.station.line.scanner).offer (.scan text)

/-- A SCAN message at the line unit (R104, R105). -/
def Act.scanMessage (a : Act) (good : Bool) (text : List Byte) : Act :=
  if a.station.countsScans then (if good then a.goodScan text else a.badScan) else a

/-- ATTN at the composer: in ACTIVE a clear attention flag is set and ATTENTION raised (R129). -/
def Act.attention (a : Act) : Act :=
  if a.station.state = .active ∧ a.station.attention = false then
    ({ a with station := { a.station with attention := true } } : Act).raise .attention
  else a

/-- An accepted message handed on (R160). -/
def Act.handOn (a : Act) : Upstream → Act
  | .key it => a.offer it
  | .scan good text => a.scanMessage good text
  | .attn => a.attention
  | .alive => a

/-! ## Reception (R199) -/

/-- An upstream message as the line unit has received it: its type, its body of the stated length, the byte
in the place of the end byte, and whether a byte of it was marked with a parity error or with a bit-level
framing error (R156, R199). -/
structure LineMessage where
  type : Byte
  body : List Byte
  endByte : Byte
  parityMark : Bool
  framingMark : Bool
  deriving DecidableEq, Repr

/-- The receiver after one byte, with the message that the byte completes, if it does. Waiting, a byte that
is no start byte is discarded; reading, the type, the length and the stated number of body bytes are read,
and the byte after them, in the place of the end byte, completes the message whatever it is (R199, log 22). -/
def Receiver.read : Receiver → LineByte → Receiver × Option LineMessage
  | .waiting, b => (if b.value = 0x1E#8 then .reading b.parity b.framing [] else .waiting, none)
  | .reading p f bytes, b =>
    match bytes with
    | type :: length :: body =>
      if body.length < length.toNat then
        (.reading (p || b.parity) (f || b.framing) (bytes ++ [b.value]), none)
      else (.waiting, some ⟨type, body, b.value, p || b.parity, f || b.framing⟩)
    | _ => (.reading (p || b.parity) (f || b.framing) (bytes ++ [b.value]), none)

/-! ## Arrival (R155, R156) -/

/-- What becomes of an arriving message (R155, R156). -/
inductive Arrival where
  | parity
  | framing
  | accepted (m : Upstream)
  deriving DecidableEq, Repr

/-- The judgment of an arriving message: a parity error first, then a framing error, a missing end byte or a
message that does not decode (R156, R199). -/
def judge (m : LineMessage) : Arrival :=
  if m.parityMark then .parity
  else if m.framingMark || m.endByte != 0x1F#8 then .framing
  else
    match decodeUpstream m.type m.body with
    | some u => .accepted u
    | none => .framing

/-- A message discarded for a parity error (R156). -/
def LineUnit.countParity (l : LineUnit) : LineUnit := { l with parityErrors := bump l.parityErrors }

/-- A message discarded for a framing error (R156). -/
def LineUnit.countFraming (l : LineUnit) : LineUnit := { l with framingErrors := bump l.framingErrors }

/-- A change of station `i` in its line unit alone. -/
def State.modLine (s : State) (i : StationId) (f : LineUnit → LineUnit) : State :=
  s.setStation i { s.station i with line := f (s.station i).line }

/-- A message arrives at line unit `i` (R155, R156). -/
def State.receive (s : State) (i : StationId) (m : LineMessage) : State :=
  match judge m with
  | .parity => s.modLine i LineUnit.countParity
  | .framing => s.modLine i LineUnit.countFraming
  | .accepted u => s.event i fun a => a.hear.handOn u

/-- The line unit with its receiver set. -/
def LineUnit.setReceiver (l : LineUnit) (r : Receiver) : LineUnit := { l with receiver := r }

/-- A message that may have been completed is judged. -/
def State.arrive (s : State) (i : StationId) : Option LineMessage → State
  | none => s
  | some m => s.receive i m

/-- One byte received on station line `i` (R199). -/
def State.lineByte (i : StationId) (s : State) (b : LineByte) : State :=
  let r := (s.station i).line.receiver.read b
  (s.modLine i (·.setReceiver r.1)).arrive i r.2

/-- Bytes received on station line `i`, one after another (R199). -/
def State.lineBytes (s : State) (i : StationId) (bytes : List LineByte) : State := bytes.foldl (State.lineByte i) s

/-- An undamaged message of the given type and body. -/
def cleanMessage (type : Byte) (body : List Byte) : LineMessage where
  type := type
  body := body
  endByte := 0x1F#8
  parityMark := false
  framingMark := false

/-- The status byte of a SCAN (R199). -/
def scanStatus (good : Bool) : Byte := if good then 1#8 else 0#8

/-! ## The line falls silent (R157, R158) -/

/-- The line goes DOWN: the line unit as R158 gives, the key queue emptied without tones, settling cleared,
LINE-DOWN raised. -/
def Act.lineDown (a : Act) : Act :=
  ({ a with
      station := { a.station with
        line := a.station.line.goDown, queue := [], form := a.station.form.map fun x => x.settle false } } :
    Act).raise .lineDown

/-! ## Transmission complete (R154, R164, R166) -/

/-- The repaint of the whole screen has just completed its row 24 (R166). -/
def LineUnit.repaintDone (l : LineUnit) : Bool := l.repaint.any fun r => decide (24 < r)

/-- The message in flight completes; after the row 24 PAINT of a repaint in progress the repaint ends and
its report clears settling (R154, R166). -/
def Act.transmitted (a : Act) : Act :=
  let l := a.station.line
  if l.repaintDone then
    { a with
      station := { a.station with
        line := { l with inFlight := none, repaint := none },
        form := a.station.form.map fun x => x.settle false } }
  else { a with station := { a.station with line := { l with inFlight := none } } }

/-! ## The steps of the table -/

/-- KEY (R155, R160). -/
def execKey (i : StationId) (code : Byte) (s : State) : Host.Outcome State Fault Refusal :=
  (s.receive i (cleanMessage 0x01#8 [code])).done

/-- SCAN (R104, R105). -/
def execScan (i : StationId) (good : Bool) (text : List Byte) (s : State) : Host.Outcome State Fault Refusal :=
  (s.receive i (cleanMessage 0x02#8 (scanStatus good :: text))).done

/-- ATTN (R129). -/
def execAttn (i : StationId) (s : State) : Host.Outcome State Fault Refusal :=
  (s.receive i (cleanMessage 0x03#8 [])).done

/-- ALIVE (R155). -/
def execAlive (i : StationId) (s : State) : Host.Outcome State Fault Refusal :=
  (s.receive i (cleanMessage 0x04#8 [])).done

/-- DAMAGED_MESSAGE: the bytes of the message as the line delivers them, with their marks (R156, R199, logs
16 and 22). -/
def execDamagedMessage (i : StationId) (bytes : List LineByte) (s : State) : Host.Outcome State Fault Refusal :=
  (s.lineBytes i bytes).done

/-- The silence timer's expiry; a stopped timer has none (R157, R158, log 4). -/
def execSilenceTimerExpiry (i : StationId) (s : State) : Host.Outcome State Fault Refusal :=
  if (s.station i).line.silence.isSome then (s.event i Act.lineDown).done else .next s

/-- TRANSMISSION_COMPLETE; with no message in flight there is none (R164, log 4). -/
def execTransmissionComplete (i : StationId) (s : State) : Host.Outcome State Fault Refusal :=
  if (s.station i).line.inFlight.isSome then (s.event i Act.transmitted).done else .next s

end Sys2Proof.Machine
end

