-- ==== Sys2Proof/Machine/Dispatch.lean ====
section
/-! DEFINITION. The meaning of every command: one arm per row of spec/opcode_table.json. -/

namespace Sys2Proof.Machine

def exec (i : Instr) (s : State) : Host.Outcome State Fault Refusal :=
  match i with
  | .powerOn => Sys2Proof.Machine.execPowerOn s
  | .requestFrame byte => Sys2Proof.Machine.execRequestFrame byte s
  | .frameLengthError byte => Sys2Proof.Machine.execFrameLengthError byte s
  | .responseTransmissionComplete => Sys2Proof.Machine.execResponseTransmissionComplete s
  | .stage tag load => Sys2Proof.Machine.execStage tag load s
  | .discard tag => Sys2Proof.Machine.execDiscard tag s
  | .commit tag check => Sys2Proof.Machine.execCommit tag check s
  | .lock tag kinds => Sys2Proof.Machine.execLock tag kinds s
  | .showForm tag stations form hold => Sys2Proof.Machine.execShow tag stations form hold s
  | .write tag stations order => Sys2Proof.Machine.execWrite tag stations order s
  | .notice tag stations tone text => Sys2Proof.Machine.execNotice tag stations tone text s
  | .hold tag stations => Sys2Proof.Machine.execHold tag stations s
  | .release tag stations => Sys2Proof.Machine.execRelease tag stations s
  | .page tag stations page => Sys2Proof.Machine.execPage tag stations page s
  | .reread tag stations => Sys2Proof.Machine.execReread tag stations s
  | .stationSet tag stations change => Sys2Proof.Machine.execStationSet tag stations change s
  | .stationReset tag stations => Sys2Proof.Machine.execStationReset tag stations s
  | .suspend tag stations => Sys2Proof.Machine.execSuspend tag stations s
  | .resume tag stations => Sys2Proof.Machine.execResume tag stations s
  | .pollScan tag stations => Sys2Proof.Machine.execPollScan tag stations s
  | .pollNext tag stations => Sys2Proof.Machine.execPollNext tag stations s
  | .status tag => Sys2Proof.Machine.execStatus tag s
  | .stationStatus tag station => Sys2Proof.Machine.execStationStatus tag station s
  | .identify tag => Sys2Proof.Machine.execIdentify tag s
  | .enableEvents tag enables => Sys2Proof.Machine.execEnableEvents tag enables s
  | .clearEvents tag part flags => Sys2Proof.Machine.execClearEvents tag part flags s
  | .holdOffExpiry => Sys2Proof.Machine.execHoldOffExpiry s
  | .partReset tag => Sys2Proof.Machine.execPartReset tag s
  | .key station code => Sys2Proof.Machine.execKey station code s
  | .scan station good text => Sys2Proof.Machine.execScan station good text s
  | .attn station => Sys2Proof.Machine.execAttn station s
  | .alive station => Sys2Proof.Machine.execAlive station s
  | .damagedMessage station bytes => Sys2Proof.Machine.execDamagedMessage station bytes s
  | .silenceTimerExpiry station => Sys2Proof.Machine.execSilenceTimerExpiry station s
  | .transmissionComplete station => Sys2Proof.Machine.execTransmissionComplete station s
  | .responseTimerExpiry station => Sys2Proof.Machine.execResponseTimerExpiry station s
  | .char station => Sys2Proof.Machine.execChar station s
  | .insert station => Sys2Proof.Machine.execInsert station s
  | .delete station => Sys2Proof.Machine.execDelete station s
  | .backspace station => Sys2Proof.Machine.execBackspace station s
  | .eraseField station => Sys2Proof.Machine.execEraseField station s
  | .eraseInput station => Sys2Proof.Machine.execEraseInput station s
  | .tab station => Sys2Proof.Machine.execTab station s
  | .backtab station => Sys2Proof.Machine.execBacktab station s
  | .up station => Sys2Proof.Machine.execUp station s
  | .down station => Sys2Proof.Machine.execDown station s
  | .left station => Sys2Proof.Machine.execLeft station s
  | .right station => Sys2Proof.Machine.execRight station s
  | .home station => Sys2Proof.Machine.execHome station s
  | .newline station => Sys2Proof.Machine.execNewline station s
  | .pageNext station => Sys2Proof.Machine.execPageNext station s
  | .pagePrior station => Sys2Proof.Machine.execPagePrior station s
  | .reset station => Sys2Proof.Machine.execReset station s
  | .enter station => Sys2Proof.Machine.execEnter station s
  | .functionKey station => Sys2Proof.Machine.execFunctionKey station s
  | .cancel station => Sys2Proof.Machine.execCancel station s
  | .clear station => Sys2Proof.Machine.execClear station s
  | .scanItem station => Sys2Proof.Machine.execScanItem station s
  | .hostLineByteReceived byte => Sys2Proof.Machine.execHostLineByteReceived byte s

end Sys2Proof.Machine
end

