-- ==== Sys2Proof/WellFormed.lean ====
section
/-! DEFINITION. Well-formed commands: those whose operands the spec's encodings and message forms allow. An
ill-formed command still has its meaning (a request outside its ranges is answered REFUSE FORMAT, a message
that does not decode is counted as damaged). -/

namespace Sys2Proof

open Machine

/-- The row of the table for a request that arrives under a tag. -/
def requestRow (tag : Byte) : Request → Instr
  | .stage load => .stage tag load
  | .discard => .discard tag
  | .commit check => .commit tag check
  | .lock kinds => .lock tag kinds
  | .showForm stations form hold => .showForm tag stations form hold
  | .write stations order => .write tag stations order
  | .notice stations tone text => .notice tag stations tone text
  | .hold stations => .hold tag stations
  | .release stations => .release tag stations
  | .page stations page => .page tag stations page
  | .reread stations => .reread tag stations
  | .stationSet stations change => .stationSet tag stations change
  | .stationReset stations => .stationReset tag stations
  | .suspend stations => .suspend tag stations
  | .resume stations => .resume tag stations
  | .pollScan stations => .pollScan tag stations
  | .pollNext stations => .pollNext tag stations
  | .status => .status tag
  | .stationStatus station => .stationStatus tag station
  | .identify => .identify tag
  | .enableEvents enables => .enableEvents tag enables
  | .clearEvents part flags => .clearEvents tag part flags
  | .partReset => .partReset tag

/-- The row of the table in which an item is taken. -/
def takeRow (i : StationId) : Item → Instr
  | .char _ => .char i
  | .edit .insert => .insert i
  | .edit .delete => .delete i
  | .edit .backspace => .backspace i
  | .edit .eraseField => .eraseField i
  | .edit .eraseInput => .eraseInput i
  | .move .tab => .tab i
  | .move .backtab => .backtab i
  | .move .up => .up i
  | .move .down => .down i
  | .move .left => .left i
  | .move .right => .right i
  | .move .home => .home i
  | .move .newline => .newline i
  | .move .pageNext => .pageNext i
  | .move .pagePrior => .pagePrior i
  | .reset => .reset i
  | .intent .enter => .enter i
  | .intent (.function _) => .functionKey i
  | .intent .cancel => .cancel i
  | .intent .clear => .clear i
  | .scan _ => .scanItem i

/-- The request that a request row stands for. -/
def requestOf : Instr → Option Request
  | .stage _ load => some (.stage load)
  | .discard _ => some .discard
  | .commit _ check => some (.commit check)
  | .lock _ kinds => some (.lock kinds)
  | .showForm _ stations form hold => some (.showForm stations form hold)
  | .write _ stations order => some (.write stations order)
  | .notice _ stations tone text => some (.notice stations tone text)
  | .hold _ stations => some (.hold stations)
  | .release _ stations => some (.release stations)
  | .page _ stations page => some (.page stations page)
  | .reread _ stations => some (.reread stations)
  | .stationSet _ stations change => some (.stationSet stations change)
  | .stationReset _ stations => some (.stationReset stations)
  | .suspend _ stations => some (.suspend stations)
  | .resume _ stations => some (.resume stations)
  | .pollScan _ stations => some (.pollScan stations)
  | .pollNext _ stations => some (.pollNext stations)
  | .status _ => some .status
  | .stationStatus _ station => some (.stationStatus station)
  | .identify _ => some .identify
  | .enableEvents _ enables => some (.enableEvents enables)
  | .clearEvents _ part flags => some (.clearEvents part flags)
  | .partReset _ => some .partReset
  | .powerOn | .requestFrame _ | .frameLengthError _ | .responseTransmissionComplete | .holdOffExpiry
  | .key _ _ | .scan _ _ _ | .attn _ | .alive _ | .damagedMessage _ _ | .silenceTimerExpiry _
  | .transmissionComplete _ | .responseTimerExpiry _ | .char _ | .insert _ | .delete _ | .backspace _
  | .eraseField _ | .eraseInput _ | .tab _ | .backtab _ | .up _ | .down _ | .left _ | .right _ | .home _
  | .newline _ | .pageNext _ | .pagePrior _ | .reset _ | .enter _ | .functionKey _ | .cancel _ | .clear _
  | .scanItem _ | .hostLineByteReceived _ => none

/-- A request fits a frame: it lies in its ranges (R173 step 2) and its payload has at most 1024 bytes
(R170). -/
def requestFits (r : Request) : Bool :=
  requestValid r && decide ((requestBytes r).length ≤ Config.payloadCapacity)

/-- A key code that R199 lists. -/
def keyFits (code : Byte) : Bool := (keyItem code).isSome

/-- The text of a SCAN: 1 to 48 printable characters when good, at most 48 characters when bad (R155). -/
def scanFits (good : Bool) (text : List Byte) : Bool :=
  if good then textValid 1 48 text else decide (text.length ≤ 48)

/-- What a waiting receiver makes of received bytes: the receiver after them, with the messages they complete
(R199). -/
def messagesOf : Receiver → List LineByte → Receiver × List LineMessage
  | r, [] => (r, [])
  | r, b :: bs =>
    let t := r.read b
    let rest := messagesOf t.1 bs
    (rest.1, t.2.toList ++ rest.2)

/-- The bytes of one message, whole, that the line unit discards (R156, R199). -/
def damagedFits (bytes : List LineByte) : Bool :=
  match messagesOf .waiting bytes with
  | (.waiting, [m]) => judge m == .parity || judge m == .framing
  | _ => false

/-- A well-formed command. -/
def Instr.wellFormed (c : Instr) : Bool :=
  match requestOf c, c with
  | some r, _ => requestFits r
  | none, .key _ code => keyFits code
  | none, .scan _ good text => scanFits good text
  | none, .damagedMessage _ bytes => damagedFits bytes
  | none, _ => true

end Sys2Proof
end

