-- ==== Sys2Proof/Safety.lean ====
section
/-! DEFINITION. What a sound part is, in the terms that claims use: the invariants of the stations, of their
line units, of the library, of the host line and of SRQ, and the frames of commands. -/

namespace Sys2Proof.Machine

/-! ## The screen image (R39, R40, R42) -/

/-- The stored image pictures the station. -/
def Station.Pictured (st : Station) : Prop := st.image = composeImage st

/-! ## The composer (R26 to R30, R46, R47, R126, R129, R148) -/

/-- What goes with each station state: NO-FORM holds nothing; SUSPENDED holds no entry, no attention, no item
and no settling (R27, R28, R29, R46, R129, R152). -/
def Station.Consistent (st : Station) : Prop :=
  match st.state with
  | .noForm =>
    st.form = none ∧ st.keyboard = .free ∧ st.queue = [] ∧ st.slot = none ∧ st.attention = false ∧
      st.notice = List.replicate 40 blank
  | .active => st.form.isSome = true
  | .suspended =>
    st.queue = [] ∧ st.slot = none ∧ st.attention = false ∧ (∀ x, st.form = some x → x.settling = false) ∧
      (st.form = none → st.keyboard = .free ∧ st.notice = List.replicate 40 blank)

/-- The key queue holds at most 16 items, and none while the line is DOWN (R47, R158). -/
def Station.QueueSound (st : Station) : Prop :=
  st.queue.length ≤ Config.keyQueue ∧ (st.line.up = false → st.queue = [])

/-- The response timer runs only in ACTIVE with the keyboard WAITING, from the station's own timeout, which is
not 0 (R126, R127, R148). -/
def Station.TimerSound (st : Station) : Prop :=
  ∀ n, st.timer = some n →
    st.state = .active ∧ st.keyboard = .waiting ∧ n = st.settings.timeout ∧ st.settings.timeout ≠ 0

/-! ## The line unit (R104, R106, R157, R158, R161 to R169) -/

/-- A span lies on the screen (section 9.4). -/
def Span.OnScreen (s : Span) : Prop := 1 ≤ s.row ∧ s.row ≤ 24 ∧ 1 ≤ s.first ∧ s.first ≤ s.last ∧ s.last ≤ 80

/-- The paint queue: at most 16 spans, each on the screen, no two of one row touching, and none while
repaint-all is set, which ends a repaint in progress (R161, R162). -/
def LineUnit.QueueSound (l : LineUnit) : Prop :=
  l.paintQueue.length ≤ Config.paintQueue ∧ (∀ s ∈ l.paintQueue, s.OnScreen) ∧
    l.paintQueue.Pairwise (fun a b => a.touches b = false) ∧
    (l.repaintAll = true → l.paintQueue = [] ∧ l.repaint = none)

/-- The scanner state goes with the counter and the setting: ENABLED below 32, SUSPENDED at 32, DISABLED at 0
and exactly when the setting is off (R104, R106). -/
def Station.ScannerSound (st : Station) : Prop :=
  (match st.line.scanner with
    | .enabled => st.line.scanErrors < Config.scanErrorLimit
    | .suspended => st.line.scanErrors = Config.scanErrorLimit
    | .disabled => st.line.scanErrors = 0) ∧
    (st.line.scanner = .disabled ↔ st.settings.scanner = false)

/-- A DOWN line holds nothing in flight and nothing pending but the repaint-all flag, and its silence timer is
stopped; an UP line's silence timer runs (R157, R158, R168, R169). -/
def LineUnit.DownSound (l : LineUnit) : Prop :=
  if l.up then l.silence = some Config.silenceSeconds
  else l.silence = none ∧ l.inFlight = none ∧ l.repaint = none ∧ l.repaintAll = true ∧ l.tone = none ∧
    l.lastCursor = none

/-- A line unit that has accepted a message, before the message is handed on: UP, the silence timer started afresh,
and, when the line was DOWN, ERASE-SCREEN in flight as the start of the repaint of the whole screen (R157, R159,
R164), which sets the last cursor sent to 0 (R167, log 12). -/
def LineUnit.heard (l : LineUnit) : LineUnit :=
  if l.up then { l with silence := some 3 }
  else
    { l with
      up := true, silence := some 3, repaintAll := false, repaint := some 1, inFlight := some .erase,
      lastCursor := some 0 }

/-- A repaint of the whole screen has just been started; its ERASE-SCREEN has set the last cursor sent to 0 (R164,
R166, R167, log 12). -/
def LineUnit.StartsRepaint (l : LineUnit) : Prop :=
  l.inFlight = some .erase ∧ l.repaint = some 1 ∧ l.repaintAll = false ∧ l.lastCursor = some 0

/-- The paint engine leaves nothing unsent: with the line UP and no message in flight, no tone is pending, no
repaint is in progress or asked for, no span is queued, and the head's cursor is where the composer shows
it (R164, R167). -/
def Station.EngineSound (st : Station) : Prop :=
  st.line.up = true → st.line.inFlight = none →
    st.line.tone = none ∧ st.line.repaint = none ∧ st.line.repaintAll = false ∧ st.line.paintQueue = [] ∧
      st.line.lastCursor = some st.cursorShown

/-- A repaint of the whole screen in progress has a message in flight; its next row lies in 1 to 25, and it is 25
exactly while the PAINT of row 24 is in flight (R162, R163, R166). -/
def LineUnit.RepaintSound (l : LineUnit) : Prop :=
  ∀ r, l.repaint = some r →
    1 ≤ r ∧ r ≤ 25 ∧ l.inFlight.isSome = true ∧
      (r = 25 → ∃ text runs, l.inFlight = some (.paint 24 1 text runs))

/-- Settling is set only in ACTIVE with the line UP, and then a repaint of the whole screen is asked for or in
progress, whose report will clear it (R44, R166). -/
def Station.SettlingSound (st : Station) : Prop :=
  ∀ x, st.form = some x → x.settling = true →
    st.state = .active ∧ st.line.up = true ∧ (st.line.repaintAll = true ∨ st.line.repaint.isSome = true)

/-! ## The form instance (R31, R32, R36, R38) -/

/-- The records of an instance are those of its definition, each content as long as its field; exactly the
computed fields have a result, and no host override lies on one; a field whose effective kind is FIXED, as that
of a computed field always is, is never touched nor marked (R32, R34, R88, R140). -/
def FormInstance.FieldsSound (x : FormInstance) : Prop :=
  x.fields.map (·.defn) = x.defn.fields ∧
    ∀ f ∈ x.fields, f.content.length = f.defn.length ∧ f.result.isSome = x.isComputed f ∧
      (x.isComputed f = true → f.override = none ∧ f.touched = false ∧ f.mark = none) ∧
      (f.kind = .fixed → f.touched = false ∧ f.mark = none)

/-- The current page is a page of the form and has been visited (R38). -/
def FormInstance.PageSound (x : FormInstance) : Prop :=
  1 ≤ x.page ∧ x.page ≤ x.defn.pages ∧ x.defn.pages ≤ Config.pages ∧ x.visited.getLsbD (x.page - 1) = true

/-- The cursor is a position of the form area (R37). -/
def FormInstance.CursorSound (x : FormInstance) : Prop := x.cursor < Config.positions

/-- The instance was copied from a form that passed validation (R17, R18, R19, R31). -/
def FormInstance.CopySound (x : FormInstance) : Prop :=
  formValid x.defn = true ∧ Machine.formOffence x.classes x.defn = none ∧
    x.order = computationOrder x.defn.rules

/-- A sound instance. -/
def FormInstance.Sound (x : FormInstance) : Prop :=
  x.CopySound ∧ x.FieldsSound ∧ x.PageSound ∧ x.CursorSound

/-- Every computed field shows what its rule gives for the fields as they stand (R88, R98). -/
def FormInstance.ResultsCurrent (x : FormInstance) : Prop :=
  ∀ r ∈ x.defn.rules, ∀ f ∈ x.fields, f.defn.number = r.target →
    f.result = some (ruleResult r (r.sources.map x.operand) f.defn.length).1 ∧
      f.content = (ruleResult r (r.sources.map x.operand) f.defn.length).2

/-- The computed fields of the instance that a station holds, if it holds one, are current. -/
def Station.ResultsCurrent (st : Station) : Prop := ∀ x, st.form = some x → x.ResultsCurrent

/-- The instance that a station holds, if it holds one, is sound. -/
def Station.FormSound (st : Station) : Prop := ∀ x, st.form = some x → x.Sound

/-! ## The library (R1, R5, R9, R12, R15 to R23) -/

/-- Keys strictly ascending from 1 to `top`: the canonical form of a table. -/
def Table.Sound {α : Type} (top : Nat) (t : Table α) : Prop :=
  (t.map Prod.fst).Pairwise (· < ·) ∧ ∀ k ∈ t.map Prod.fst, 1 ≤ k ∧ k ≤ top

/-- Every table of the library is in canonical form (R1, R9). -/
def Library.TablesSound (l : Library) : Prop :=
  Table.Sound Config.forms l.forms ∧ Table.Sound Config.classes l.classes ∧ Table.Sound Config.routes l.routes ∧
    Table.Sound Config.forms l.stagedForms ∧ Table.Sound Config.classes l.stagedClasses ∧
    Table.Sound Config.routes l.stagedRoutes

/-- The records of the library lie in their ranges (R10). -/
def Library.RangesSound (l : Library) : Prop :=
  (∀ e ∈ l.forms, formValid e.2.defn = true) ∧ (∀ e ∈ l.classes, classValid e.2 = true) ∧
    (∀ e ∈ l.routes, routeValid e.2 = true) ∧ (∀ e ∈ l.stagedForms, e.2.all formValid = true) ∧
    (∀ e ∈ l.stagedClasses, e.2.all classValid = true) ∧ (∀ e ∈ l.stagedRoutes, e.2.all routeValid = true)

/-- The active tables pass the validation of R16 to R21, and each form has its computation order (R5, R22). -/
def Library.ActiveSound (l : Library) : Prop :=
  l.view.offence = none ∧ l.view.fieldTotal ≤ Config.fieldCapacity ∧
    ∀ e ∈ l.forms, e.2.order = computationOrder e.2.defn.rules

/-- The staging area holds at most 64 entries, and its running sum is 0 while it is EMPTY (R9, R12, R13). -/
def Library.StagingSound (l : Library) : Prop :=
  l.staged ≤ Config.stagingCapacity ∧ (l.filling = false → l.sum = 0#16)

/-! ## The host line (R172, R175, R177, R184) -/

/-- The frames that have been queued and not yet been transmitted, in their order. -/
def HostLine.frames (h : HostLine) : List TxFrame := h.inTx.toList ++ h.txQueue

/-- The last frames of the answers that are still counted. -/
def HostLine.owed (h : HostLine) : Nat := h.frames.countP fun f => f.counted && f.last

/-- The outstanding count is the number of answers owed, at most 4; a frame is in transmission whenever one is
queued; every queued frame is counted; the part is SCANNING exactly while one SCAN's POLL-END is owed, and
only a SCAN has frames that are not the last of their answer, at most 8 of them, all before its POLL-END
(R172, R175, R177, R178, R184). -/
def HostLine.Sound (h : HostLine) : Prop :=
  h.outstanding = h.owed ∧ h.outstanding ≤ Config.outstandingRequests ∧ (h.inTx = none → h.txQueue = []) ∧
    (∀ f ∈ h.txQueue, f.counted = true) ∧ (∀ f ∈ h.frames, f.endsScan = true → f.last = true) ∧
    h.frames.countP (fun f => f.counted && f.endsScan) = (if h.polling = .scanning then 1 else 0) ∧
    h.frames.countP (fun f => f.counted && !f.last) ≤ 8 ∧
    (h.polling = .idle → h.frames.countP (fun f => f.counted && !f.last) = 0) ∧
    h.frames.Pairwise (fun a b => a.counted = true → a.endsScan = true → b.last = true)

/-! ## SRQ (R189) -/

/-- The SRQ output is at its level. -/
def EventUnit.Sound (e : EventUnit) : Prop := e.srq = e.srqLevel

/-! ## Frames of commands -/

/-- Nothing outside station `i` and the event unit has changed. -/
def State.OthersKept (s t : State) (i : StationId) : Prop :=
  (∀ j, j ≠ i → t.station j = s.station j) ∧ t.library = s.library ∧ t.host = s.host ∧ t.pending = s.pending

/-- No station has changed. -/
def State.StationsKept (s t : State) : Prop := ∀ j, t.station j = s.station j

/-- The event unit is as it was, SRQ at its level. -/
def State.EventsQuiet (s t : State) : Prop := t.events = s.events.drive

/-- Nothing but the receive framer and the level of SRQ has changed. -/
def State.FramedTo (s t : State) (fr : Framer) : Prop :=
  t.host = { s.host with framer := fr } ∧ t.library = s.library ∧ t.pending = s.pending ∧
    t.events = s.events.drive ∧ ∀ j, t.station j = s.station j

/-- The event unit has captured one event of station `i`, SRQ at its level. -/
def State.EventsRaised (s t : State) (i : StationId) (k : StationEvent) : Prop :=
  t.events = (s.events.raiseStation i k).drive

/-- A station without its picture and its line unit: what the composer itself holds. -/
def Station.composer (st : Station) : Station := { st with image := [], line := LineUnit.reset }

/-- What no event but the line's own changes at a line unit: the line state, the silence timer, the counters,
the scanner and the receiver. -/
def Station.LineKept (a b : Station) : Prop :=
  b.line.up = a.line.up ∧ b.line.silence = a.line.silence ∧ b.line.parityErrors = a.line.parityErrors ∧
    b.line.framingErrors = a.line.framingErrors ∧ b.line.scanErrors = a.line.scanErrors ∧
    b.line.scanner = a.line.scanner ∧ b.line.receiver = a.line.receiver

/-- An event at station `i` has left it as `after`, its image recomposed and its line unit handed what the event
changed: a repaint of the whole screen when `repaint` says so, else the spans, and then the tones asked (R42,
R53, R164). -/
def State.Left (s t : State) (i : StationId) (after : Station) (repaint : Bool) (tones : List Tone) : Prop :=
  (t.station i).composer = after.composer ∧
    t.station i = (⟨after, tones, repaint, []⟩ : Act).finish (s.station i).image

/-- The same for an event that leaves the line's own fields, and nothing outside the station has changed but the
event unit. -/
def State.Made (s t : State) (i : StationId) (after : Station) (repaint : Bool := false)
    (tones : List Tone := []) : Prop :=
  s.Left t i after repaint tones ∧ (s.station i).LineKept (t.station i) ∧ s.OthersKept t i

/-- Station `i` is ACTIVE and FREE on the instance `x`, not settling, with `it` at the head of its queue and `q`
behind it (R49). -/
def State.Takes (s : State) (i : StationId) (x : FormInstance) (it : Item) (q : List Item) : Prop :=
  (s.station i).state = .active ∧ (s.station i).form = some x ∧ (s.station i).queue = it :: q ∧
    (s.station i).keyboard = .free ∧ x.settling = false

/-- The instance after a move to `dest` guarded by the exit check: the cursor there, or the failing field marked
and the cursor where it was (R59). -/
def FormInstance.guardedTo (x : FormInstance) (dest : Nat) : FormInstance :=
  match x.departure fun f => f.covers dest with
  | some (n, m) => x.mark n m
  | none => { x with cursor := dest }

/-- The keyboard, FREE before, after a move to `dest` guarded by the exit check (R59, R86). -/
def FormInstance.guardedKeyboard (x : FormInstance) (dest : Nat) : Keyboard :=
  match x.departure fun f => f.covers dest with
  | some (_, m) => .inhibited (markReason m)
  | none => .free

/-- The tone of a move to `dest` guarded by the exit check: a long one when the check fails (R52, R59). -/
def FormInstance.guardedTones (x : FormInstance) (dest : Nat) : List Tone :=
  match x.departure fun f => f.covers dest with
  | some _ => [.long]
  | none => []

/-- `c` is what the first of the rows that holds gives: a table of checks of which the first failing
one is reported (R16, R74, R84). -/
def FirstHolds {α : Type} (rows : List (Prop × α)) (c : α) : Prop :=
  ∃ a p b, rows = a ++ (p, c) :: b ∧ (∀ q ∈ a, ¬q.1) ∧ p

/-- The host line after a request has been accepted and answered by one frame (R172, R175). -/
def HostLine.answered (h : HostLine) (tag : Byte) (r : Response) : HostLine :=
  ({ h with outstanding := h.outstanding + 1 } : HostLine).send [answerFrame tag r]

/-- A station that holds an instance takes the orders that need one (R136). -/
def Station.holdsForm (st : Station) : Bool := st.state != .noForm && st.form.isSome

/-- A station order has been answered with the outcomes `out`, and changed nothing outside the stations of its
set nor any station that refused it (R134). -/
def State.Ordered (s t : State) (tag kind : Byte) (set : StationSet) (out : StationId → StationOutcome) : Prop :=
  (∀ j, set.getLsbD j.val = false → t.station j = s.station j) ∧
    (∀ j c, out j = .refused c → t.station j = s.station j) ∧ t.library = s.library ∧ t.pending = s.pending ∧
    t.host = s.host.answered tag (.accept (.outcomes kind ((members set).map fun i => (i, out i))))

/-- The outcome of an applied order without lists and with the LATE flag clear (R134). -/
def plainOutcome : StationOutcome := .applied false [] []

/-- The bytes of a host frame received one after another. -/
def receiveBytes : List Byte → State → Host.Outcome State Fault Refusal
  | [], s => .next s
  | b :: bs, s =>
    match exec (.hostLineByteReceived b) s with
    | .next t => receiveBytes bs t
    | .fault r => .fault r
    | .refused r => .refused r

end Sys2Proof.Machine
end

