-- ==== Sys2Proof/Certificates/Slice0/Obligations.lean ====
section
/-! DEFINITION. The statements for the provers. -/

section

open Sys2Proof Sys2Proof.Machine

/-! ## The machine -/

/-- A step carries out the command at the front of the queue; with none waiting the part idles (log 6). -/
def Obligations.StepRunsTheFrontCommand : Prop :=
  (∀ (c : Instr) (rest : List Instr) (s : State),
    step { s with pending := c :: rest } = exec c { s with pending := rest }) ∧
  ∀ s : State, s.pending = [] → step s = .next s

/-- No command stops the part, and none touches the queue of commands, POWER_ON included (log 6). A row whose event
cannot occur as the state stands leaves the state as it is: the row of an item whose station is not ACTIVE, is
settling, has its keyboard WAITING or HELD, or has no item of that row at the head of its queue (R49, log 3); and
the expiry of a timer that is stopped, or the end of a transmission that is not going on (log 4). -/
def Obligations.EveryCommandGoesOn : Prop :=
  (∀ (c : Instr) (s : State), ∃ t, exec c s = .next t ∧ t.pending = s.pending) ∧
  (∀ (i : StationId) (it : Item) (s : State),
    ((s.station i).state ≠ .active ∨ (∃ x, (s.station i).form = some x ∧ x.settling = true) ∨
      (s.station i).keyboard = .waiting ∨ (s.station i).keyboard = .held ∨
      ∀ head q, (s.station i).queue = head :: q → takeRow i head ≠ takeRow i it) →
    exec (takeRow i it) s = .next s) ∧
  (∀ (i : StationId) (s : State),
    ((s.station i).line.silence = none → exec (.silenceTimerExpiry i) s = .next s) ∧
    ((s.station i).line.inFlight = none → exec (.transmissionComplete i) s = .next s) ∧
    ((s.station i).timer = none → exec (.responseTimerExpiry i) s = .next s)) ∧
  ∀ s : State,
    (s.events.holdOff = none → exec .holdOffExpiry s = .next s) ∧
    (s.host.inTx = none → exec .responseTransmissionComplete s = .next s)

/-- POWER_ON gives the power-on values of R25, R46, R71, R132, R150, R169 and R185, and no command from the
queue is lost (log 6); that the receiver of a line unit then waits for a start byte is log 22. -/
def Obligations.PowerOnGivesThePowerOnState : Prop :=
  ∀ s : State, ∃ t, exec .powerOn s = .next t ∧ t.pending = s.pending ∧
    t.library = ⟨[], [], [], [], [], [], 0#16, 0, 0#3⟩ ∧
    t.host = ⟨.hunt, 0, [], none, 0, 0, 0, .idle, 0#8, 0⟩ ∧
    t.events.partFlags = 0b001#3 ∧ (∀ i : StationId, t.events.stationFlags[i.val] = 0#8) ∧
    t.events.enables = 0b00100000111#11 ∧ t.events.holdOff = none ∧ t.events.srq = true ∧
    ∀ i, (t.station i).state = .noForm ∧ (t.station i).form = none ∧ (t.station i).keyboard = .free ∧
      (t.station i).queue = [] ∧ (t.station i).slot = none ∧ (t.station i).attention = false ∧
      (t.station i).timer = none ∧ (t.station i).notice = List.replicate 40 blank ∧
      (t.station i).settings = ⟨false, 30, .keep, .reject, true, true⟩ ∧
      (t.station i).image = composeImage (t.station i) ∧
      (t.station i).line = ⟨false, none, [], true, none, none, none, none, 0, 0, 0, .enabled, .waiting⟩

/-- Every invariant of the statements below holds after power-on. -/
def Obligations.InvariantsHoldAfterPowerOn : Prop :=
  (∀ i, (State.reset.station i).Pictured ∧ (State.reset.station i).Consistent ∧
    (State.reset.station i).QueueSound ∧ (State.reset.station i).TimerSound ∧
    (State.reset.station i).line.QueueSound ∧ (State.reset.station i).line.DownSound ∧
    (State.reset.station i).line.RepaintSound ∧ (State.reset.station i).EngineSound ∧
    (State.reset.station i).SettlingSound ∧ (State.reset.station i).ScannerSound ∧
    (State.reset.station i).FormSound ∧ (State.reset.station i).ResultsCurrent) ∧
  State.reset.library.TablesSound ∧ State.reset.library.RangesSound ∧ State.reset.library.ActiveSound ∧
  State.reset.library.StagingSound ∧ State.reset.host.Sound ∧ State.reset.events.Sound

/-! ## Invariants of every step -/

/-- Every station's stored image pictures it after every step: 24 rows of 80 places. In ACTIVE a place of rows 1 to
23 that lies in no field of the current page is a blank in NORMAL; one that lies in a field holds its content
character, or a blank in a FIXED field with HIDDEN, in the first of REVERSE for an error mark, BRIGHT by the
effective brightness, UNDERLINE for INPUT, and NORMAL. Row 24 holds the notice, the keyboard indicator (REVERSE in
INHIBITED and TIMED-OUT), the page, insert, scanner and attention indicators in their columns, and blanks between
and after. In NO-FORM and SUSPENDED rows 1 to 23 are blank; row 24 shows "NO FORM" and the scanner indicator, or
"SUSPENDED" (R39 to R42). -/
def Obligations.StepKeepsTheImage : Prop :=
  (∀ s t : State, (∀ i, (s.station i).Pictured) → step s = .next t → ∀ i, (t.station i).Pictured) ∧
  ∀ st : Station,
    let img := composeImage st
    let place : Nat → Nat → Option Place := fun r c => (img[r - 1]?).bind fun row => row[c - 1]?
    let ascii : String → List Byte := fun t => t.toList.map fun ch => BitVec.ofNat 8 ch.toNat
    let area : Nat → Nat → List Byte → Rendition → Prop := fun first width text rend =>
      ∀ k, k < width → place 24 (first + k) = some ⟨text.getD k blank, rend⟩
    let scanner : List Byte := if st.line.scanner = .enabled then [] else ascii "SCN OFF"
    img.length = 24 ∧ (∀ row ∈ img, row.length = 80) ∧
    (∀ x, st.state = .active → st.form = some x →
      (∀ r c, 1 ≤ r → r ≤ 23 → 1 ≤ c → c ≤ 80 →
        let p := (r - 1) * 80 + (c - 1)
        let lies : FieldRec → Prop := fun f => f.defn.page = x.page ∧ f.defn.row = r ∧ f.covers p = true
        ((∀ f ∈ x.fields, ¬lies f) → place r c = some ⟨blank, .normal⟩) ∧
        ∀ f ∈ x.fields, lies f → (∀ g ∈ x.fields, lies g → g = f) → ∀ ch, f.content[p - f.start]? = some ch →
          place r c = some
            ⟨if f.kind = .fixed ∧ f.defn.hidden = true then blank else ch,
              if f.mark.isSome = true then .reverse else if f.bright = true then .bright
              else if f.kind = .input then .underline else .normal⟩) ∧
      area 1 40 st.notice .normal ∧
      area 42 8
        (ascii (match st.keyboard with
          | .free => "" | .waiting => "WAIT" | .timedOut => "NO REPLY" | .held => "HOLD"
          | .inhibited .prot => "X PROT" | .inhibited .char => "X CHAR" | .inhibited .full => "X FULL"
          | .inhibited .format => "X FORMAT" | .inhibited .range => "X RANGE" | .inhibited .mand => "X MAND"
          | .inhibited .route => "X ROUTE" | .inhibited .pend => "X PEND"))
        (match st.keyboard with
          | .inhibited _ => .reverse
          | .timedOut => .reverse
          | .free | .waiting | .held => .normal) ∧
      (x.page ≤ 9 → x.defn.pages ≤ 9 →
        area 51 4
          [0x50#8, BitVec.ofNat 8 (0x30 + x.page), 0x2F#8, BitVec.ofNat 8 (0x30 + x.defn.pages)] .normal) ∧
      area 56 3 (if x.insert = true then ascii "INS" else []) .normal ∧ area 60 7 scanner .normal ∧
      area 68 4 (if st.attention = true then ascii "ATTN" else []) .normal ∧
      ∀ c, (c ∈ [41, 50, 55, 59, 67] ∨ (72 ≤ c ∧ c ≤ 80)) → place 24 c = some ⟨blank, .normal⟩) ∧
    (st.state ≠ .active →
      ∀ r c, 1 ≤ r → r ≤ 23 → 1 ≤ c → c ≤ 80 → place r c = some ⟨blank, .normal⟩) ∧
    (st.state = .noForm →
      area 42 8 (ascii "NO FORM") .normal ∧ area 60 7 scanner .normal ∧
        ∀ c, 1 ≤ c → c ≤ 80 → ¬(42 ≤ c ∧ c ≤ 49) → ¬(60 ≤ c ∧ c ≤ 66) → place 24 c = some ⟨blank, .normal⟩) ∧
    (st.state = .suspended →
      area 42 9 (ascii "SUSPENDED") .normal ∧
        ∀ c, 1 ≤ c → c ≤ 80 → ¬(42 ≤ c ∧ c ≤ 50) → place 24 c = some ⟨blank, .normal⟩)

/-- What goes with each station state stays with it (R26 to R29, R46, R129, R152). -/
def Obligations.StepKeepsStationStates : Prop :=
  ∀ s t : State, (∀ i, (s.station i).Consistent) → step s = .next t → ∀ i, (t.station i).Consistent

/-- A key queue never holds more than 16 items, and none while its line is DOWN; the response timer runs only in
ACTIVE and WAITING, from the station's timeout, which is not 0 (that a running timer holds the duration it was
started from is the model's choice, log 5); the scanner is SUSPENDED exactly at 32 errors, and DISABLED exactly
when its setting is off (R47, R104, R106, R126 to R128, R148, R158). -/
def Obligations.StepKeepsQueuesTimersAndScanners : Prop :=
  ∀ s t : State, step s = .next t →
    ((∀ i, (s.station i).QueueSound) → ∀ i, (t.station i).QueueSound) ∧
    ((∀ i, (s.station i).TimerSound) → ∀ i, (t.station i).TimerSound) ∧
    ((∀ i, (s.station i).ScannerSound) → ∀ i, (t.station i).ScannerSound)

/-- A paint queue holds at most 16 spans, all on the screen, no two of one row touching, and none while repaint-all
is set. A span handed to the line unit is discarded while repaint-all is set or a repaint has not yet reached its
row; else it replaces the spans it touches by one from the lowest first column to the highest last one, in the place
of the earliest; or it joins the end of the queue; or, with 16 spans queued, the queue collapses to repaint-all. At
its end an event recomposes the image and hands a repaint request when it asked for one, which empties the queue,
sets repaint-all and abandons a repaint in progress, else one span for each changed row, in ascending order (log 8),
from the lowest changed column to the highest; then its tones, unless the tone setting is off; and then the paint
engine chooses (log 7). A tone asked on a DOWN line is dropped; on an UP line it is pending, a long one staying long
(R42, R53, R161 to R163, R168). -/
def Obligations.StepKeepsPaintQueues : Prop :=
  (∀ s t : State, (∀ i, (s.station i).line.QueueSound) → step s = .next t → ∀ i, (t.station i).line.QueueSound) ∧
  (∀ a b : Span, a.touches b = true ↔ a.row = b.row ∧ a.first ≤ b.last + 1 ∧ b.first ≤ a.last + 1) ∧
  (∀ (l : LineUnit) (m : Span),
    (l.repaintAll = true → l.handSpan m = l) ∧
    (∀ next, l.repaint = some next → next ≤ m.row → l.handSpan m = l) ∧
    (l.repaintAll = false → (∀ next, l.repaint = some next → m.row < next) →
      ((∀ q ∈ l.paintQueue, m.touches q = false) →
        l.handSpan m =
          if l.paintQueue.length < 16 then { l with paintQueue := l.paintQueue ++ [m] }
          else { l with paintQueue := [], repaintAll := true, repaint := none }) ∧
      (m.first ≤ m.last → (∀ q ∈ l.paintQueue, q.first ≤ q.last) →
        l.paintQueue.Pairwise (fun p q => p.touches q = false) →
        ∀ a q b, l.paintQueue = a ++ q :: b → m.touches q = true → (∀ p ∈ a, m.touches p = false) →
          ∃ h : Span,
            l.handSpan m = { l with paintQueue := a ++ h :: b.filter fun p => !m.touches p } ∧
            h.row = m.row ∧ h.first ≤ m.first ∧ m.last ≤ h.last ∧
            (∀ p ∈ l.paintQueue, m.touches p = true → h.first ≤ p.first ∧ p.last ≤ h.last) ∧
            (h.first = m.first ∨ ∃ p ∈ l.paintQueue, m.touches p = true ∧ h.first = p.first) ∧
            (h.last = m.last ∨ ∃ p ∈ l.paintQueue, m.touches p = true ∧ h.last = p.last)))) ∧
  (∀ (a : Act) (before : Image),
    let after := composeImage a.station
    let painted : LineUnit :=
      if a.repaint = true then { a.station.line with paintQueue := [], repaintAll := true, repaint := none }
      else (imageSpans 1 before after).foldl LineUnit.handSpan a.station.line
    let asked : LineUnit := if a.station.settings.tone = true then a.tones.foldl LineUnit.askTone painted else painted
    a.finish before =
      { a.station with image := after, line := asked.engine after a.station.cursorShown }) ∧
  (∀ before after : Image, before.length = 24 → after.length = 24 → (∀ row ∈ before, row.length = 80) →
    (∀ row ∈ after, row.length = 80) →
    let place : Image → Nat → Nat → Option Place := fun img r c => (img[r - 1]?).bind fun row => row[c - 1]?
    let changed : Nat → Nat → Prop := fun r c => place before r c ≠ place after r c
    (imageSpans 1 before after).Pairwise (fun p q => p.row < q.row) ∧
    ∀ p : Span, p ∈ imageSpans 1 before after ↔
      (p.OnScreen ∧ changed p.row p.first ∧ changed p.row p.last ∧
        ∀ c, 1 ≤ c → c ≤ 80 → changed p.row c → p.first ≤ c ∧ c ≤ p.last)) ∧
  ∀ (l : LineUnit) (t : Tone),
    l.askTone t =
      if l.up = false then l
      else { l with tone := some (match l.tone with | some .long => .long | some .short => t | none => t) }

/-- The paint engine leaves nothing unsent, a repaint in progress goes on, and a DOWN line is quiet (R157, R158,
R162 to R168; that the engine chooses at the end of an event is log 7, and that the running silence timer of an UP
line holds the 3 seconds it was started from is log 5). -/
def Obligations.StepKeepsThePaintEngine : Prop :=
  ∀ s t : State,
    (∀ i, (s.station i).line.DownSound ∧ (s.station i).line.RepaintSound ∧ (s.station i).EngineSound) →
    step s = .next t →
    ∀ i, (t.station i).line.DownSound ∧ (t.station i).line.RepaintSound ∧ (t.station i).EngineSound

/-- Settling never lasts without a repaint of the whole screen that will report it painted (R44, R158, R166). -/
def Obligations.StepKeepsSettlingAnswered : Prop :=
  ∀ s t : State, (∀ i, (s.station i).SettlingSound) → step s = .next t → ∀ i, (t.station i).SettlingSound

/-- The tables stay in canonical form and in their ranges, the active tables stay valid, and the staging area
stays within 64 entries (R1, R5, R9, R12, R15 to R22). -/
def Obligations.StepKeepsTheLibrary : Prop :=
  ∀ s t : State,
    s.library.TablesSound → s.library.RangesSound → s.library.ActiveSound → s.library.StagingSound →
    step s = .next t →
    t.library.TablesSound ∧ t.library.RangesSound ∧ t.library.ActiveSound ∧ t.library.StagingSound

/-- A form instance stays a sound copy: its records those of its definition, each content as long as its field, no
field of effective kind FIXED touched or marked, no computed field touched, marked or overridden, its page a visited
page of the form, its cursor in the form area. A field's effective kind and brightness are its override's when it has
one, else its definition's; a text is padded with blanks or cut to a length; a computed field is a FIXED field of the
definition that a rule targets; a field is found and changed by its number (R3, R31 to R34, R37, R38, R88; that a
number two records share finds the first and changes both is log 17). -/
def Obligations.StepKeepsFormInstances : Prop :=
  (∀ s t : State,
    s.library.RangesSound → s.library.ActiveSound → (∀ i, (s.station i).FormSound) → step s = .next t →
    ∀ i, (t.station i).FormSound) ∧
  (∀ f : FieldRec,
    (f.override = none → f.kind = f.defn.kind ∧ f.bright = f.defn.bright) ∧
    ∀ o, f.override = some o → f.kind = o.kind ∧ f.bright = o.bright) ∧
  (∀ (n : Nat) (text : List Byte), padCut n text = text.take n ++ List.replicate (n - text.length) blank) ∧
  ∀ (x : FormInstance) (n : Nat),
    (∀ f, x.isComputed f = true ↔ f.defn.kind = .fixed ∧ ∃ r ∈ x.defn.rules, r.target = f.defn.number) ∧
    ((∀ f ∈ x.fields, f.defn.number ≠ n) → x.field? n = none) ∧
    (∀ a f b, x.fields = a ++ f :: b → (∀ g ∈ a, g.defn.number ≠ n) → f.defn.number = n → x.field? n = some f) ∧
    ∀ g : FieldRec → FieldRec,
      x.modField n g = { x with fields := x.fields.map fun f => if f.defn.number = n then g f else f }

/-- Computed fields are never stale: after every step each shows what its rule gives for the fields as they stand.
Running rules changes the results and contents of the fields that a rule targets, and nothing else of the instance
(R88, R98, R99). -/
def Obligations.StepKeepsComputedFieldsCurrent : Prop :=
  (∀ s t : State,
    s.library.RangesSound → s.library.ActiveSound →
    (∀ i, (s.station i).FormSound ∧ (s.station i).ResultsCurrent) → step s = .next t →
    ∀ i, (t.station i).ResultsCurrent) ∧
  ∀ (x : FormInstance) (changed : List Nat),
    x.recompute changed = { x with fields := (x.recompute changed).fields } ∧
    (x.recompute changed).fields.length = x.fields.length ∧
    ∀ (n : Nat) (f g : FieldRec), x.fields[n]? = some f → (x.recompute changed).fields[n]? = some g →
      g = { f with content := g.content, result := g.result } ∧
        ((∀ r ∈ x.defn.rules, r.target ≠ f.defn.number) → g = f)

/-- The outstanding count counts the answers still owed, at most 4, and only a SCAN has more than one frame; so the
queue and the frame in transmission together never hold more than 13 frames (R172, R175, R177, R178, R184). -/
def Obligations.StepKeepsTheHostLine : Prop :=
  (∀ s t : State, s.host.Sound → step s = .next t → t.host.Sound) ∧
  ∀ h : HostLine, h.Sound → h.frames.length ≤ 13

/-- SRQ is asserted exactly when an event flag is pending and the hold-off is not running, after every step; to
drive it is to set it so, and changes nothing else (R189). -/
def Obligations.StepKeepsSrq : Prop :=
  (∀ s t : State, s.events.Sound → step s = .next t → t.events.Sound) ∧
  ∀ e : EventUnit,
    let pending := e.partFlags ≠ 0#3 ∨ ∃ i : StationId, e.stationFlags[i.val] ≠ 0#8
    (e.Sound ↔ (e.srq = true ↔ pending ∧ e.holdOff = none)) ∧ e.drive = { e with srq := e.drive.srq } ∧
      (e.drive.srq = true ↔ pending ∧ e.holdOff = none)

/-! ## Encodings (chapter 11) -/

/-- Every request in its ranges decodes from the kind and payload that chapter 11 gives it, and from no other: a kind
and a payload decode to a request exactly when it lies in its ranges, the kind is its own and the payload is byte for
byte its payload, the value bytes of the settings that a STATION SET does not carry aside, which are not examined. So
bytes left over, a bit that stands for nothing, or a value of an option or a limit that is absent make it fail (R173,
R190). The ranges are those of R2, R3, R4, R6, R7 and R10 for the records of a STAGE, and of R193 for the orders; the
kinds are those of R191, and the payloads are laid out as R192 to R194 say: the bytes of numbers, texts, lists, flags
and limits by R190 (that the bytes of the settings a STATION SET does not carry are written as 0 is the model's
choice, log 15). -/
def Obligations.RequestsDecodeFromTheirBytes : Prop :=
  (∀ r : Request, requestValid r = true → decodeRequest (kindCode r) (requestBytes r) = some r) ∧
  (∀ (kind : Byte) (payload : List Byte) (r : Request),
    let carried : Nat → Bool := fun n => (payload.getD 1 0#8).getLsbD (n - 2)
    let examined : List Byte :=
      if kind = 0x17#8 then payload.mapIdx fun n b => if 2 ≤ n ∧ carried n = false then 0#8 else b else payload
    decodeRequest kind payload = some r ↔
      requestValid r = true ∧ kindCode r = kind ∧ examined = requestBytes r) ∧
  (let printed : Nat → Nat → List Byte → Prop := fun lo hi t =>
      lo ≤ t.length ∧ t.length ≤ hi ∧ ∀ c ∈ t, 0x20 ≤ c.toNat ∧ c.toNat ≤ 0x7E
    let within : Nat → Nat → Nat → Prop := fun lo hi n => lo ≤ n ∧ n ≤ hi
    let entries : (α : Type) → Nat → (α → Prop) → List (Nat × Option α) → Prop := fun _ top ok es =>
      within 1 255 es.length ∧ ∀ e ∈ es, within 1 top e.1 ∧ ∀ d, e.2 = some d → ok d
    let field : FieldDef → Prop := fun f =>
      within 1 96 f.number ∧ within 1 4 f.page ∧ within 1 23 f.row ∧ within 1 80 f.column ∧ within 1 79 f.length ∧
        f.cls ≤ 31 ∧ printed 0 79 f.default
    let rule : Rule → Prop := fun r =>
      within 1 16 r.number ∧ (r.op = .sum → within 1 24 r.sources.length) ∧ (r.op ≠ .sum → r.sources.length = 2) ∧
        (∀ n ∈ r.sources, within 1 96 n) ∧ within 1 96 r.target ∧ r.places ≤ 4
    let form : FormDef → Prop := fun d =>
      within 1 4 d.pages ∧ (∀ n, d.initial = some n → within 1 96 n) ∧ within 1 96 d.fields.length ∧
        (∀ f ∈ d.fields, field f) ∧ d.rules.length ≤ 16 ∧ ∀ r ∈ d.rules, rule r
    let cls : ClassDef → Prop := fun c =>
      c.places ≤ 4 ∧ ∀ v, (c.low = some v ∨ c.high = some v) → -999999999999999 ≤ v ∧ v ≤ 999999999999999
    let route : RouteDef → Prop := fun r =>
      (∀ n, r.form = some n → within 1 32 n) ∧ printed 1 8 r.pattern ∧
        (∀ n, r.pattern.length ≤ n → r.mask.getLsbD n = false) ∧ r.length ≤ 48 ∧ r.strip ≤ 8 ∧ r.target ≤ 96
    ∀ r : Request, requestValid r = true ↔
      match r with
      | .stage (.forms es) => entries FormDef 32 form es
      | .stage (.classes es) => entries ClassDef 31 cls es
      | .stage (.routes es) => entries RouteDef 16 route es
      | .showForm _ n _ => within 1 32 n
      | .write _ w =>
        (∀ p, w.page = some p → within 1 255 p) ∧
          (∀ n off, w.cursor = some (n, off) → within 1 96 n ∧ off ≤ 255) ∧ w.updates.length ≤ 255 ∧
          ∀ u ∈ w.updates, within 1 96 u.field ∧ printed 0 255 u.text
      | .notice _ _ t => printed 0 255 t
      | .page _ p => within 1 255 p
      | .stationSet _ c => ∀ n, c.timeout = some n → n ≤ 255
      | .discard | .commit _ | .lock _ | .hold _ | .release _ | .reread _ | .stationReset _ | .suspend _ | .resume _
      | .pollScan _ | .pollNext _ | .status | .stationStatus _ | .identify | .enableEvents _ | .clearEvents _ _
      | .partReset => True) ∧
  let one : Nat → Byte := fun n => BitVec.ofNat 8 n
  let two : Nat → List Byte := fun n => [BitVec.ofNat 8 (n / 256), BitVec.ofNat 8 n]
  let bit : Bool → Nat → Nat := fun b n => if b = true then n else 0
  let flag : Bool → Byte := fun b => if b = true then 1#8 else 0#8
  let text : List Byte → List Byte := fun t => one t.length :: t
  let tone : Option Tone → Byte := fun t => match t with | none => 0#8 | some .short => 1#8 | some .long => 2#8
  let limit : Option Int → List Byte := fun v =>
    [7, 6, 5, 4, 3, 2, 1, 0].map fun k => BitVec.ofInt 8 (v.getD 0 / 256 ^ k)
  let staged : (α : Type) → (α → List Byte) → List (Nat × Option α) → List Byte := fun _ record es =>
    one es.length :: es.flatMap fun e => one e.1 :: match e.2 with | none => [0#8] | some d => 1#8 :: record d
  let field : FieldDef → List Byte := fun f =>
    [one f.number, one f.page, one f.row, one f.column, one f.length,
      one (bit (f.kind == .fixed) 1 + bit f.skip 2 + bit f.bright 4 + bit f.hidden 8), one f.cls] ++ text f.default
  let rule : Rule → List Byte := fun r =>
    [one r.number, match r.op with | .product => 1#8 | .percent => 2#8 | .sum => 3#8 | .difference => 4#8,
      one r.sources.length] ++ r.sources.map one ++
      [one r.target, one r.places, one (bit r.signed 1 + bit r.report 2)]
  let form : FormDef → List Byte := fun d =>
    [one d.pages, one (bit d.cycle 1)] ++ two d.shortKeys.toNat ++ [one (d.initial.getD 0), one d.fields.length] ++
      d.fields.flatMap field ++ one d.rules.length :: d.rules.flatMap rule
  let cls : ClassDef → List Byte := fun c =>
    [match c.kind with | .text => 1#8 | .alpha => 2#8 | .digits => 3#8 | .decimal => 4#8, one c.places,
      one (bit c.signed 1 + bit c.mandatoryEntry 2 + bit c.mandatoryFill 4 + bit c.fold 8 + bit c.low.isSome 16 +
        bit c.high.isSome 32)] ++ limit c.low ++ limit c.high
  let route : RouteDef → List Byte := fun r =>
    one (r.form.getD 0) :: text r.pattern ++ [r.mask, one r.length, one r.strip, one r.target]
  ∀ r : Request, (kindCode r, requestBytes r) =
    match r with
    | .stage (.forms es) => (0x01#8, 1#8 :: staged FormDef form es)
    | .stage (.classes es) => (0x01#8, 2#8 :: staged ClassDef cls es)
    | .stage (.routes es) => (0x01#8, 3#8 :: staged RouteDef route es)
    | .discard => (0x02#8, [])
    | .commit check => (0x03#8, two check.toNat)
    | .lock kinds => (0x04#8, [kinds.setWidth 8])
    | .showForm set n hold => (0x10#8, [set, one n, flag hold])
    | .write set w =>
      (0x11#8, [set,
          one (bit w.eraseInput 1 + bit w.clearMarks 2 + bit w.resetTouched 4 + bit w.page.isSome 8 +
            bit w.cursor.isSome 16 + bit w.restore 32 + bit w.tone.isSome 64),
          one (w.page.getD 0), one ((w.cursor.map Prod.fst).getD 0), one ((w.cursor.map Prod.snd).getD 0),
          tone w.tone, one w.updates.length] ++
        w.updates.flatMap fun u =>
          one u.field ::
            (match u.override with
              | none => 0#8
              | some ⟨.input, false⟩ => 1#8
              | some ⟨.input, true⟩ => 2#8
              | some ⟨.fixed, false⟩ => 3#8
              | some ⟨.fixed, true⟩ => 4#8) :: text u.text)
    | .notice set t txt => (0x12#8, set :: tone t :: text txt)
    | .hold set => (0x13#8, [set])
    | .release set => (0x14#8, [set])
    | .page set n => (0x15#8, [set, one n])
    | .reread set => (0x16#8, [set])
    | .stationSet set c =>
      (0x17#8, [set,
        one (bit c.typeahead.isSome 1 + bit c.timeout.isSome 2 + bit c.policy.isSome 4 + bit c.fallback.isSome 8 +
          bit c.scanner.isSome 16 + bit c.tone.isSome 32),
        flag (c.typeahead.getD false), one (c.timeout.getD 0), flag (c.policy == some .override),
        flag (c.fallback == some .wedge), flag (c.scanner.getD false), flag (c.tone.getD false)])
    | .stationReset set => (0x18#8, [set])
    | .suspend set => (0x19#8, [set])
    | .resume set => (0x1A#8, [set])
    | .pollScan set => (0x20#8, [set, 1#8])
    | .pollNext set => (0x20#8, [set, 2#8])
    | .status => (0x21#8, [0xFF#8])
    | .stationStatus i => (0x21#8, [one i.val])
    | .enableEvents enables => (0x22#8, two enables.toNat)
    | .clearEvents part flags => (0x23#8, part.setWidth 8 :: flags.toList)
    | .identify => (0x24#8, [])
    | .partReset => (0x25#8, [])

/-- The bytes of a request's frame, received one after another by a framer in HUNT, do what the request's own row
does (R170, R171, R191; that a request row is its request as it arrives in a frame that passed its check is log 1,
that one step takes every byte of the host line, whichever row it stands under, is log 2, and the payload of a
request row is the one of log 15). -/
def Obligations.FramesRunTheirRequests : Prop :=
  ∀ (r : Request) (tag : Byte) (s : State),
    requestFits r = true → s.host.framer = .hunt → s.events.Sound →
    receiveBytes (frameBytes (kindCode r) tag (requestBytes r)) s = exec (requestRow tag r) s

/-! ## The bytes of the host line (R170, R171, R175) -/

/-- A byte that neither completes a frame nor gives its length moves the framer alone. -/
def Obligations.HostBytesMoveTheFramer : Prop :=
  ∀ (b : Byte) (s : State),
    (s.host.framer = .hunt → ∃ t, exec (.hostLineByteReceived b) s = .next t ∧ s.FramedTo t
      (if b = 0x5A#8 then .header 0#16 [] else .hunt)) ∧
    (∀ sum recorded, s.host.framer = .header sum recorded → recorded.length < 3 →
      ∃ t, exec (.hostLineByteReceived b) s = .next t ∧
        s.FramedTo t (.header (sum + b.setWidth 16) (recorded ++ [b]))) ∧
    (∀ sum kind tag hi, s.host.framer = .header sum [kind, tag, hi] → 256 * hi.toNat + b.toNat ≤ 1024 →
      ∃ t, exec (.hostLineByteReceived b) s = .next t ∧
        s.FramedTo t (if 256 * hi.toNat + b.toNat = 0 then .check (sum + b.setWidth 16) kind tag [] none
          else .payload (sum + b.setWidth 16) kind tag (256 * hi.toNat + b.toNat) [])) ∧
    (∀ sum kind tag n recorded, s.host.framer = .payload sum kind tag n recorded →
      ∃ t, exec (.hostLineByteReceived b) s = .next t ∧
        s.FramedTo t (if recorded.length + 1 < n then .payload (sum + b.setWidth 16) kind tag n (recorded ++ [b])
          else .check (sum + b.setWidth 16) kind tag (recorded ++ [b]) none)) ∧
    (∀ sum kind tag payload, s.host.framer = .check sum kind tag payload none →
      ∃ t, exec (.hostLineByteReceived b) s = .next t ∧ s.FramedTo t (.check sum kind tag payload (some b)))

/-- A length over 1024 discards the frame: the framer back in HUNT, the length-error counter up, FRAME-ERROR
raised, and no response. The last check byte: a frame whose check fails is counted and discarded, one that
passes while 4 requests are outstanding is an overrun, one that does not decode is refused FORMAT, and one that
passes and decodes is its request. A sum of bytes is taken modulo 65536, and the check is its two bytes high byte
first (R170 to R173, logs 1 and 2). -/
def Obligations.FramesAreTested : Prop :=
  (∀ hi lo : Byte, (halfOf hi lo).toNat = 256 * hi.toNat + lo.toNat) ∧
  (∀ bytes : List Byte, (byteSum bytes).toNat = (bytes.map BitVec.toNat).sum % 65536) ∧
  (∀ (b : Byte) (s : State) (sum : Half) (kind tag hi : Byte),
    s.host.framer = .header sum [kind, tag, hi] → 1024 < 256 * hi.toNat + b.toNat →
    ∃ t, exec (.frameLengthError b) s = .next t ∧
      t.host = { s.host with framer := .hunt, lengthErrors := min (s.host.lengthErrors + 1) 65535 } ∧
      t.events = (s.events.raisePart .frameError).drive ∧ s.StationsKept t ∧ t.library = s.library ∧
      t.pending = s.pending) ∧
  ∀ (b : Byte) (s : State) (sum : Half) (kind tag hi : Byte) (payload : List Byte),
    s.host.framer = .check sum kind tag payload (some hi) →
    (sum + halfOf hi b ≠ 0#16 →
      ∃ t, exec (.requestFrame b) s = .next t ∧
        t.host = { s.host with framer := .hunt, checkErrors := min (s.host.checkErrors + 1) 65535 } ∧
        t.events = (s.events.raisePart .frameError).drive ∧ s.StationsKept t ∧ t.library = s.library ∧
        t.pending = s.pending) ∧
    (sum + halfOf hi b = 0#16 → 4 ≤ s.host.outstanding →
      ∃ t, exec (.requestFrame b) s = .next t ∧
        t.host = { s.host with framer := .hunt, overruns := min (s.host.overruns + 1) 65535 } ∧
        t.events = (s.events.raisePart .hostOverrun).drive ∧ s.StationsKept t ∧ t.library = s.library ∧
        t.pending = s.pending) ∧
    (sum + halfOf hi b = 0#16 → s.host.outstanding < 4 → decodeRequest kind payload = none →
      ∃ t, exec (.requestFrame b) s = .next t ∧
        t.host = ({ s.host with framer := .hunt } : HostLine).answered tag (.refuse kind (.code .format)) ∧
        s.EventsQuiet t ∧ s.StationsKept t ∧ t.library = s.library ∧ t.pending = s.pending) ∧
    (∀ r, sum + halfOf hi b = 0#16 → decodeRequest kind payload = some r → (requestBytes r).length ≤ 1024 →
      kindCode r = kind ∧
      ∃ t, exec (.requestFrame b) s = .next t ∧
        exec (requestRow tag r) (s.modHost fun h => { h with framer := .hunt }) = .next t)

/-- A response frame's transmission ends: the last frame of a counted answer lowers the outstanding count, a counted
SCAN's POLL-END returns polling to IDLE, and the frame at the queue's head starts. Frames sent join the end of the
queue, and the head starts at once when no frame is in transmission (R175, R177, R184). -/
def Obligations.ResponsesAreTransmittedInOrder : Prop :=
  (∀ (h : HostLine) (fs : List TxFrame),
    (∀ f, h.inTx = some f → h.send fs = { h with txQueue := h.txQueue ++ fs }) ∧
    (h.inTx = none → ∀ f rest, h.txQueue ++ fs = f :: rest → h.send fs = { h with inTx := some f, txQueue := rest })) ∧
  (∀ (tag : Byte) (r : Response), answerFrame tag r = ⟨tag, r, true, true, false⟩) ∧
  ∀ (s : State) (f : TxFrame), s.host.inTx = some f →
    ∃ t, exec .responseTransmissionComplete s = .next t ∧
      t.host.inTx = s.host.txQueue.head? ∧ t.host.txQueue = s.host.txQueue.tail ∧
      t.host.outstanding = (if f.counted && f.last then s.host.outstanding - 1 else s.host.outstanding) ∧
      t.host.polling = (if f.counted && f.endsScan then .idle else s.host.polling) ∧
      t.host.framer = s.host.framer ∧ t.host.checkErrors = s.host.checkErrors ∧
      t.host.lengthErrors = s.host.lengthErrors ∧ t.host.overruns = s.host.overruns ∧
      t.host.group = s.host.group ∧ t.host.pointer = s.host.pointer ∧
      s.EventsQuiet t ∧ s.StationsKept t ∧ t.library = s.library ∧ t.pending = s.pending

/-! ## Requests before they are carried out (R172, R173) -/

/-- A fifth request is discarded without a response, as an overrun; a request outside its ranges, one that names no
station, and a WRITE or NOTICE that is too long are refused FORMAT, EMPTYSET and LENGTH, in that order; neither
changes anything else (R172, R173; that a request row starts at R172, and that one outside its ranges is
refused FORMAT, are logs 1 and 14). A station set is carried by the orders of chapter 8, REREAD and POLL alone; too
long is a WRITE of more than 64 updates or with a text of more than 79 characters, and a NOTICE of more than 40. -/
def Obligations.RequestsAreTurnedAway : Prop :=
  (∀ r : Request, stationsOf r =
    match r with
    | .showForm set _ _ | .write set _ | .notice set _ _ | .hold set | .release set | .page set _ | .reread set
    | .stationSet set _ | .stationReset set | .suspend set | .resume set | .pollScan set | .pollNext set => some set
    | .stage _ | .discard | .commit _ | .lock _ | .status | .stationStatus _ | .identify | .enableEvents _
    | .clearEvents _ _ | .partReset => none) ∧
  (∀ r : Request, overLength r = true ↔
    (∃ set w, r = .write set w ∧ (64 < w.updates.length ∨ ∃ u ∈ w.updates, 79 < u.text.length)) ∨
      ∃ set tone text, r = .notice set tone text ∧ 40 < text.length) ∧
  ∀ (r : Request) (tag : Byte) (s : State), (requestBytes r).length ≤ 1024 →
    (4 ≤ s.host.outstanding →
      ∃ t, exec (requestRow tag r) s = .next t ∧
        t.host = { s.host with overruns := min (s.host.overruns + 1) 65535 } ∧
        t.events = (s.events.raisePart .hostOverrun).drive ∧ s.StationsKept t ∧ t.library = s.library ∧
        t.pending = s.pending) ∧
    ∀ c : RefuseCode, s.host.outstanding < 4 →
      (if requestValid r = false then some RefuseCode.format
        else if stationsOf r = some 0#8 then some RefuseCode.emptySet
        else if overLength r = true then some RefuseCode.length else none) = some c →
      ∃ t, exec (requestRow tag r) s = .next t ∧
        t.host = s.host.answered tag (.refuse (kindCode r) (.code c)) ∧ s.EventsQuiet t ∧ s.StationsKept t ∧
        t.library = s.library ∧ t.pending = s.pending

/-! ## The form library (chapter 1) -/

/-- STAGE: refused LOCKED or FULL with nothing changed, else its entries staged and its payload bytes added to the
running sum. A load is locked by the bit of its table kind, goes into the staging area of its own kind, and the
entries of all three count (R9, R11, R12, R24, R194; the payload of a STAGE row is the one chapter 11 lays out, log
15). -/
def Obligations.StageLoadsEntries : Prop :=
  (∀ l : Library,
    l.staged = l.stagedForms.length + l.stagedClasses.length + l.stagedRoutes.length ∧
    (∀ es, l.locked (loadKind (.forms es)) = l.locks.getLsbD 0 ∧
      l.stageEntries (.forms es) = { l with stagedForms := stageInto l.stagedForms es }) ∧
    (∀ es, l.locked (loadKind (.classes es)) = l.locks.getLsbD 1 ∧
      l.stageEntries (.classes es) = { l with stagedClasses := stageInto l.stagedClasses es }) ∧
    ∀ es, l.locked (loadKind (.routes es)) = l.locks.getLsbD 2 ∧
      l.stageEntries (.routes es) = { l with stagedRoutes := stageInto l.stagedRoutes es }) ∧
  ∀ (tag : Byte) (load : StageLoad) (s : State),
    loadValid load = true → (loadBytes load).length ≤ 1024 → s.host.outstanding < 4 →
    ∃ t, exec (.stage tag load) s = .next t ∧ s.EventsQuiet t ∧ s.StationsKept t ∧ t.pending = s.pending ∧
      if s.library.locked (loadKind load) = true then
        t.library = s.library ∧ t.host = s.host.answered tag (.refuse 0x01#8 (.code .locked))
      else if 64 < (s.library.stageEntries load).staged then
        t.library = s.library ∧ t.host = s.host.answered tag (.refuse 0x01#8 (.code .full))
      else
        t.library = { s.library.stageEntries load with sum := s.library.sum + byteSum (loadBytes load) } ∧
          t.host = s.host.answered tag (.accept (.stage (s.library.stageEntries load).staged))

/-- A staged entry replaces the one staged for its number, the last of a payload winning, and every other number
keeps its entry. In the merged view a staged record stands for its number, a remove marker takes its number out,
and every other number keeps its active record. The view is examined in the fixed order: the first class that
breaks a row of R17, then the first form with an offence, then the first route. Within a form come a duplicated
field number, a duplicated rule number (log 9 says which one is named), the initial cursor; then the lowest-numbered
field that fails a row of R18, with the first row it fails (log 10: fields share a position on the same row); then
the lowest-numbered rule that fails a row of R19; then the lowest rule number on a cycle (R9, R11, R15 to R20). -/
def Obligations.StagedEntriesStandForTheirNumbers : Prop :=
  (∀ (α : Type) (t : Table α) (k : Nat), lookupKey k t = (t.find? fun e => e.1 == k).map Prod.snd) ∧
  (∀ (α : Type) (t : Table (Option α)) (es : List (Nat × Option α)) (k : Nat),
    lookupKey k (stageInto t es) =
      match es.reverse.find? fun e => e.1 == k with
      | some e => some e.2
      | none => lookupKey k t) ∧
  (∀ l : Library, l.TablesSound →
    (∀ k, lookupKey k l.merged.forms =
      match lookupKey k l.stagedForms with
      | some d => d
      | none => (lookupKey k l.forms).map ActiveForm.defn) ∧
    (∀ k, lookupKey k l.merged.classes =
      match lookupKey k l.stagedClasses with
      | some c => c
      | none => lookupKey k l.classes) ∧
    ∀ k, lookupKey k l.merged.routes =
      match lookupKey k l.stagedRoutes with
      | some r => r
      | none => lookupKey k l.routes) ∧
  (∀ v : View,
    let bad : ClassDef → Prop := fun c =>
      (c.places ≠ 0 ∧ c.kind ≠ .decimal) ∨ (c.signed = true ∧ c.kind ≠ .decimal) ∨
        ((c.low.isSome = true ∨ c.high.isSome = true) ∧ (c.kind = .text ∨ c.kind = .alpha)) ∨
        ((∃ n, (c.low = some n ∨ c.high = some n) ∧ n < 0) ∧ ¬(c.kind = .decimal ∧ c.signed = true)) ∨
        (∃ lo hi, c.low = some lo ∧ c.high = some hi ∧ hi < lo) ∨
        (c.fold = true ∧ (c.kind = .digits ∨ c.kind = .decimal))
    let routeRows : RouteDef → List (Prop × Cause) := fun r =>
      [(∃ n, r.form = some n ∧ lookupKey n v.forms = none, .formRef),
        (∃ n d, r.form = some n ∧ lookupKey n v.forms = some d ∧ r.target ≠ 0 ∧ ∀ f ∈ d.fields, f.number ≠ r.target,
          .routeField)]
    (∀ a k c b, v.classes = a ++ (k, c) :: b → (∀ e ∈ a, ¬bad e.2) → bad c →
      v.offence = some ⟨.cls, k, .classDef, 0⟩) ∧
    ((∀ e ∈ v.classes, ¬bad e.2) →
      (∀ a k d b cause item, v.forms = a ++ (k, d) :: b → (∀ e ∈ a, formOffence v.classes e.2 = none) →
        formOffence v.classes d = some (cause, item) → v.offence = some ⟨.form, k, cause, item⟩) ∧
      ((∀ e ∈ v.forms, formOffence v.classes e.2 = none) →
        (∀ a k r b cause, v.routes = a ++ (k, r) :: b → (∀ e ∈ a, ∀ row ∈ routeRows e.2, ¬row.1) →
          FirstHolds (routeRows r) cause → v.offence = some ⟨.route, k, cause, 0⟩) ∧
        ((∀ e ∈ v.routes, ∀ row ∈ routeRows e.2, ¬row.1) → v.offence = none)))) ∧
  ∀ (classes : Table ClassDef) (d : FormDef),
    let numeric : FieldDef → Prop := fun f =>
      f.cls ≠ 0 ∧ ∃ c, lookupKey f.cls classes = some c ∧ (c.kind = .digits ∨ c.kind = .decimal)
    let fieldRows : FieldDef → List (Prop × Cause) := fun f =>
      [(d.pages < f.page, .page), (80 < f.column + f.length - 1, .place),
        (∃ g ∈ d.fields, g.number ≠ f.number ∧ g.page = f.page ∧ g.row = f.row ∧ f.column < g.column + g.length ∧
          g.column < f.column + f.length, .overlap),
        ((f.kind = .input ∧ f.hidden = true) ∨ (f.kind = .fixed ∧ f.skip = true), .attr),
        (f.cls ≠ 0 ∧ lookupKey f.cls classes = none, .cls), (numeric f ∧ 15 < f.length, .width),
        (f.length < f.default.length, .default)]
    let ruleRows : Rule → List (Prop × Cause) := fun r =>
      [(∃ n ∈ r.sources, ∀ f ∈ d.fields, f.number ≠ n, .source),
        (∃ n ∈ r.sources, ∃ f ∈ d.fields, f.number = n ∧ ¬(f.kind = .input ∧ numeric f) ∧ ∀ q ∈ d.rules, q.target ≠ n,
          .source),
        (∀ f ∈ d.fields, ¬(f.number = r.target ∧ f.kind = .fixed), .target),
        (∃ q ∈ d.rules, q.number < r.number ∧ q.target = r.target, .dupTarget)]
    let reaches : Rule → Rule → Prop :=
      Relation.TransGen fun a b => a ∈ d.rules ∧ b ∈ d.rules ∧ a.target ∈ b.sources
    (¬(d.fields.map FieldDef.number).Nodup →
      ∃ n, 1 < (d.fields.map FieldDef.number).count n ∧ formOffence classes d = some (.dupField, n)) ∧
    ((d.fields.map FieldDef.number).Nodup → ¬(d.rules.map Rule.number).Nodup →
      ∃ n, 1 < (d.rules.map Rule.number).count n ∧ formOffence classes d = some (.dupRule, n)) ∧
    ((d.fields.map FieldDef.number).Nodup → (d.rules.map Rule.number).Nodup →
      (∀ n, d.initial = some n → (∀ f ∈ d.fields, ¬(f.number = n ∧ f.kind = .input ∧ f.page = 1)) →
        formOffence classes d = some (.initial, n)) ∧
      ((∀ n, d.initial = some n → ∃ f ∈ d.fields, f.number = n ∧ f.kind = .input ∧ f.page = 1) →
        (∀ f ∈ d.fields, ∀ cause, FirstHolds (fieldRows f) cause →
          (∀ g ∈ d.fields, g.number < f.number → ∀ row ∈ fieldRows g, ¬row.1) →
          formOffence classes d = some (cause, f.number)) ∧
        ((∀ f ∈ d.fields, ∀ row ∈ fieldRows f, ¬row.1) →
          (∀ r ∈ d.rules, ∀ cause, FirstHolds (ruleRows r) cause →
            (∀ q ∈ d.rules, q.number < r.number → ∀ row ∈ ruleRows q, ¬row.1) →
            formOffence classes d = some (cause, r.number)) ∧
          ((∀ r ∈ d.rules, ∀ row ∈ ruleRows r, ¬row.1) →
            (∀ r ∈ d.rules, reaches r r → (∀ q ∈ d.rules, reaches q q → r.number ≤ q.number) →
              formOffence classes d = some (.cycle, r.number)) ∧
            ((∀ r ∈ d.rules, ¬reaches r r) → formOffence classes d = none)))))

/-- DISCARD empties staging, its running sum 0, and answers the entries removed; LOCK adds its kinds to the lock
set (R13, R24). -/
def Obligations.DiscardAndLock : Prop :=
  ∀ (tag : Byte) (kinds : BitVec 3) (s : State), s.host.outstanding < 4 →
    (∃ t, exec (.discard tag) s = .next t ∧
      t.library = { s.library with stagedForms := [], stagedClasses := [], stagedRoutes := [], sum := 0#16 } ∧
      t.host = s.host.answered tag (.accept (.discard s.library.staged)) ∧ s.EventsQuiet t ∧
      s.StationsKept t ∧ t.pending = s.pending) ∧
    (∃ t, exec (.lock tag kinds) s = .next t ∧
      t.library = { s.library with locks := s.library.locks ||| kinds } ∧
      t.host = s.host.answered tag (.accept (.lock (s.library.locks ||| kinds))) ∧ s.EventsQuiet t ∧
      s.StationsKept t ∧ t.pending = s.pending)

/-- COMMIT: the first failing test refuses it and leaves the library; otherwise the merged view becomes the active
tables, each form with its computation order, the generation advances and staging is emptied. No station
changes. The computation order of rules without a cycle places every rule after the rules that feed it, and at
each place the lowest-numbered of those that may come next (R5, R14, R21 to R23). -/
def Obligations.CommitInstallsTheMergedView : Prop :=
  (∀ (tag : Byte) (check : Half) (s : State), s.host.outstanding < 4 →
    ∃ t, exec (.commit tag check) s = .next t ∧ s.EventsQuiet t ∧ s.StationsKept t ∧ t.pending = s.pending ∧
      let refused : RefuseReason → Prop := fun r =>
        t.library = s.library ∧ t.host = s.host.answered tag (.refuse 0x03#8 r)
      let v := s.library.merged
      if s.library.staged = 0 then refused (.code .noStage)
      else if s.library.sum + check ≠ 0#16 then refused (.code .check)
      else if (s.library.stagedForms ≠ [] ∧ s.library.locks.getLsbD 0 = true) ∨
          (s.library.stagedClasses ≠ [] ∧ s.library.locks.getLsbD 1 = true) ∨
          (s.library.stagedRoutes ≠ [] ∧ s.library.locks.getLsbD 2 = true) then refused (.code .locked)
      else
        match v.offence with
        | some o => refused (.invalid o)
        | none =>
          let total := (v.forms.map fun e => e.2.fields.length).sum
          if 1024 < total then refused (.capacity total)
          else
            t.library =
                ⟨v.forms.map fun e => (e.1, ⟨e.2, computationOrder e.2.rules⟩), v.classes, v.routes, [], [], [],
                  0#16, if 65535 ≤ s.library.generation then 1 else s.library.generation + 1,
                  s.library.locks⟩ ∧
              t.host = s.host.answered tag (.accept (.commit
                (if 65535 ≤ s.library.generation then 1 else s.library.generation + 1)
                v.forms.length v.classes.length v.routes.length))) ∧
  ∀ rules : List Rule, (rules.map Rule.number).Nodup →
    (∀ r ∈ rules, ¬Relation.TransGen (fun a b => a ∈ rules ∧ b ∈ rules ∧ a.target ∈ b.sources) r r) →
    (computationOrder rules).Perm (rules.map Rule.number) ∧
    ∀ a n b, computationOrder rules = a ++ n :: b → ∀ r ∈ rules,
      (r.number = n → ∀ q ∈ rules, q.target ∈ r.sources → q.number ∈ a) ∧
      (r.number ∈ b → (∀ q ∈ rules, q.target ∈ r.sources → q.number ∈ a) → n < r.number)

/-! ## Orders to stations (chapter 8 and R131) -/

/-- SHOW builds a new instance at each station that is not SUSPENDED, when the form is in the table; the instance
has its numbers and copies, page 1 alone visited, insert mode off, settling while the line is UP, every record of
the form in order, untouched, unmarked and without override, every field that no rule targets with its default text,
and the cursor at the initial field or as HOME; a repaint of the whole screen is asked (R31, R36, R42, R44, R136,
R137). What the event hands to the line unit, and when the engine chooses, rests on logs 7 and 8. -/
def Obligations.ShowBuildsAnInstance : Prop :=
  (∀ (tag : Byte) (set : StationSet) (form : Nat) (hold : Bool) (s : State),
    set ≠ 0#8 → 1 ≤ form → form ≤ 32 → s.host.outstanding < 4 →
    ∃ t, exec (.showForm tag set form hold) s = .next t ∧ s.EventsQuiet t ∧
      s.Ordered t tag 0x10#8 set (fun i =>
        if (s.station i).state = .suspended then .refused .suspended
        else if (lookupKey form s.library.forms).isSome = true then plainOutcome else .refused .noForm) ∧
      ∀ i d, set.getLsbD i.val = true → (s.station i).state ≠ .suspended →
        lookupKey form s.library.forms = some d →
        s.Left t i
            { s.station i with
              state := .active
              form := some (newInstance form s.library.generation d s.library.classes (s.station i).line.up)
              keyboard := if hold = true then .held else .free
              timer := none
              queue := [] } true [] ∧
          (s.station i).LineKept (t.station i)) ∧
  ∀ (number generation : Nat) (d : ActiveForm) (classes : Table ClassDef) (up : Bool) (x : FormInstance),
    newInstance number generation d classes up = x →
    x.number = number ∧ x.generation = generation ∧ x.defn = d.defn ∧ x.order = d.order ∧
      x.classes = classes.filter (fun c => d.defn.fields.any fun f => f.cls == c.1) ∧ x.page = 1 ∧
      x.visited = 0b0001#4 ∧ x.settling = up ∧ x.insert = false ∧
      x.fields.map (·.defn) = d.defn.fields ∧
      (∀ f ∈ x.fields, f.touched = false ∧ f.mark = none ∧ f.override = none ∧
        ((∀ r ∈ d.defn.rules, r.target ≠ f.defn.number) → f.content = padCut f.defn.length f.defn.default)) ∧
      (∀ n f, d.defn.initial = some n → x.field? n = some f → x.cursor = f.start) ∧
      (d.defn.initial = none → x.cursor = firstStart (x.inputsOn 1))

/-- WRITE: refused NOFORM, BADPAGE or BADFIELD, else its options and updates applied to the instance, then its page
turned, its cursor placed, the keyboard freed and the timer stopped by RESTORE alone, and its tone asked in ACTIVE.
BADFIELD: the CURSOR option names no field of the page that will be shown. The cursor goes to the named field's
start plus the offset, at most its last position. Turned in ACTIVE, the instance stands on the page with settling
set while the line is UP (R43, R44, R128, R136, R138, R139, R146). What the event hands to the line unit, and when
the engine chooses, rests on logs 7 and 8. -/
def Obligations.WriteChangesTheInstance : Prop :=
  (∀ (tag : Byte) (set : StationSet) (w : WriteOrder) (s : State),
    set ≠ 0#8 → writeValid w = true → overLength (.write set w) = false →
    (requestBytes (.write set w)).length ≤ 1024 → s.host.outstanding < 4 →
    ∃ t, exec (.write tag set w) s = .next t ∧ s.EventsQuiet t ∧
      s.Ordered t tag 0x11#8 set (fun i =>
        match (s.station i).state, (s.station i).form with
        | .noForm, _ => .refused .noForm
        | _, none => .refused .noForm
        | _, some x =>
          if x.defn.pages < w.page.getD 0 then .refused .badPage
          else if badCursor w x = true then .refused .badField
          else
            .applied (w.restore && (s.station i).keyboard == .timedOut)
              (writeFields w (s.station i).settings.policy (s.station i).keyboard x).skipped
              (writeFields w (s.station i).settings.policy (s.station i).keyboard x).cut) ∧
      ∀ i x, set.getLsbD i.val = true → (s.station i).state ≠ .noForm → (s.station i).form = some x →
        w.page.getD 0 ≤ x.defn.pages → badCursor w x = false →
        let y := (writeFields w (s.station i).settings.policy (s.station i).keyboard x).form
        let turned : FormInstance :=
          match w.page with
          | none => y
          | some p =>
            if (s.station i).state = .active then (y.turnTo p).settle (s.station i).line.up else y.turnTo p
        s.Left t i
            { s.station i with
              form := some { turned.writeCursor w.cursor with insert := x.insert && !w.restore }
              keyboard := if w.restore = true then .free else (s.station i).keyboard
              timer := if w.restore = true then none else (s.station i).timer }
            (w.page.isSome && decide ((s.station i).state = .active))
            (if (s.station i).state = .active then w.tone.toList else []) ∧
          (s.station i).LineKept (t.station i)) ∧
  (∀ (x : FormInstance) (p : Nat) (up : Bool),
    x.turnTo p =
        { x with page := p, visited := x.visited ||| BitVec.twoPow 4 (p - 1), cursor := firstStart (x.inputsOn p) } ∧
      x.settle up = { x with settling := up }) ∧
  (∀ (w : WriteOrder) (x : FormInstance), badCursor w x = true ↔
    ∃ n off, w.cursor = some (n, off) ∧ ∀ f, x.field? n = some f → f.defn.page ≠ w.page.getD x.page) ∧
  ∀ x : FormInstance, x.writeCursor none = x ∧
    ∀ n off f, x.field? n = some f →
      x.writeCursor (some (n, off)) =
        { x with cursor := (f.defn.row - 1) * 80 + (f.defn.column - 1) + min off (f.defn.length - 1) }

/-- The fields of a WRITE, in this order: ERASE-INPUT blanks every input field, untouched and unmarked, and runs the
rules downstream; the updates follow one after another; CLEAR-MARKS then clears every mark and RESET-TOUCHED every
touched flag. One update: skipped UNKNOWN, COMPUTED or KEPT with its field listed, else the field filled with the
text, untouched and unmarked, its override replaced when the update carries one, the rules downstream run,
and the field listed as cut when the text is longer (R139 to R143). -/
def Obligations.UpdatesAreSkippedOrApplied : Prop :=
  (∀ (w : WriteOrder) (policy : Policy) (k : Keyboard) (x : FormInstance),
    let erased : FormInstance :=
      if w.eraseInput = true then
        ({ x with
            fields := x.fields.map fun f =>
              if f.kind = .input then
                { f with content := List.replicate f.defn.length blank, touched := false, mark := none }
              else f } : FormInstance).recompute
          ((x.fields.filter fun f => f.kind == .input).map fun f => f.defn.number)
      else x
    let updated := w.updates.foldl (Written.update policy k) ⟨erased, [], []⟩
    writeFields w policy k x =
      { updated with
        form := { updated.form with
          fields := updated.form.fields.map fun f =>
            { f with
              mark := if w.clearMarks = true then none else f.mark
              touched := if w.resetTouched = true then false else f.touched } } }) ∧
  ∀ (policy : Policy) (k : Keyboard) (w : Written) (u : Update),
    (w.form.field? u.field = none →
      w.update policy k u = { w with skipped := w.skipped ++ [(u.field, .unknown)] }) ∧
    ∀ f, w.form.field? u.field = some f →
      (w.form.isComputed f = true →
        w.update policy k u = { w with skipped := w.skipped ++ [(u.field, .computed)] }) ∧
      (w.form.isComputed f = false → f.kind = .input → f.touched = true →
        (k = .free ∨ ∃ r, k = .inhibited r) → policy = .keep →
        w.update policy k u = { w with skipped := w.skipped ++ [(u.field, .kept)] }) ∧
      (w.form.isComputed f = false →
        (f.kind = .fixed ∨ f.touched = false ∨ (k = .waiting ∨ k = .timedOut ∨ k = .held) ∨ policy = .override) →
        w.update policy k u =
          { form := (w.form.modField u.field fun g =>
              { g with
                content := padCut g.defn.length u.text
                touched := false
                mark := none
                override := u.override.orElse fun _ => g.override }).recompute [u.field]
            skipped := w.skipped
            cut := if f.defn.length < u.text.length then w.cut ++ [u.field] else w.cut })

/-- NOTICE sets the notice of every station that holds an instance, and asks its tone in ACTIVE. HOLD makes the
keyboard HELD, stopping the timer of a WAITING one; RELEASE makes a HELD keyboard FREE and leaves every other
keyboard (R136, R146 to R148). What the event hands to the line unit, and when the engine chooses, rests on logs 7
and 8. -/
def Obligations.NoticeHoldAndRelease : Prop :=
  (∀ (tag : Byte) (set : StationSet) (tone : Option Tone) (text : List Byte) (s : State),
    set ≠ 0#8 → textValid 0 40 text = true → s.host.outstanding < 4 →
    ∃ t, exec (.notice tag set tone text) s = .next t ∧ s.EventsQuiet t ∧
      s.Ordered t tag 0x12#8 set (fun i =>
        if (s.station i).holdsForm = true then plainOutcome else .refused .noForm) ∧
      ∀ i, set.getLsbD i.val = true → (s.station i).holdsForm = true →
        s.Left t i { s.station i with notice := text ++ List.replicate (40 - text.length) blank } false
            (if (s.station i).state = .active then tone.toList else []) ∧
          (s.station i).LineKept (t.station i)) ∧
  ∀ (tag : Byte) (set : StationSet) (s : State), set ≠ 0#8 → s.host.outstanding < 4 →
    (∃ t, exec (.hold tag set) s = .next t ∧ s.EventsQuiet t ∧
      s.Ordered t tag 0x13#8 set (fun i =>
        if (s.station i).holdsForm = true then plainOutcome else .refused .noForm) ∧
      ∀ i, set.getLsbD i.val = true → (s.station i).holdsForm = true →
        s.Left t i
            { s.station i with
              keyboard := .held
              timer := if (s.station i).keyboard = .waiting then none else (s.station i).timer } false [] ∧
          (s.station i).LineKept (t.station i)) ∧
    (∃ t, exec (.release tag set) s = .next t ∧ s.EventsQuiet t ∧
      s.Ordered t tag 0x14#8 set (fun i =>
        if (s.station i).holdsForm = true then plainOutcome else .refused .noForm) ∧
      ∀ i, set.getLsbD i.val = true → (s.station i).holdsForm = true →
        s.Left t i
            { s.station i with
              keyboard := if (s.station i).keyboard = .held then .free else (s.station i).keyboard } false [] ∧
          (s.station i).LineKept (t.station i))

/-- PAGE turns each instance to the page without an exit check, settling and a repaint of the whole screen asked in
ACTIVE alone, or is refused BADPAGE (R42 to R44, R146, R149). What the event hands to the line unit, and when the
engine chooses, rests on logs 7 and 8. -/
def Obligations.PageTurnsTheInstance : Prop :=
  ∀ (tag : Byte) (set : StationSet) (p : Nat) (s : State),
    set ≠ 0#8 → 1 ≤ p → p ≤ 255 → s.host.outstanding < 4 →
    ∃ t, exec (.page tag set p) s = .next t ∧ s.EventsQuiet t ∧
      s.Ordered t tag 0x15#8 set (fun i =>
        match (s.station i).state, (s.station i).form with
        | .noForm, _ => .refused .noForm
        | _, none => .refused .noForm
        | _, some x => if x.defn.pages < p then .refused .badPage else plainOutcome) ∧
      ∀ i x, set.getLsbD i.val = true → (s.station i).state ≠ .noForm → (s.station i).form = some x →
        p ≤ x.defn.pages →
        s.Left t i
            { s.station i with
              form := some { x with
                page := p
                visited := x.visited ||| BitVec.twoPow 4 (p - 1)
                cursor := firstStart (x.inputsOn p)
                settling := if (s.station i).state = .active then (s.station i).line.up else x.settling } }
            (decide ((s.station i).state = .active)) [] ∧
          (s.station i).LineKept (t.station i)

/-- REREAD composes an entry of the form as it stands into an empty slot and raises ENTRY-READY (R131). What the
event hands to the line unit, and when the engine chooses, rests on logs 7 and 8. -/
def Obligations.RereadComposesAnEntry : Prop :=
  ∀ (tag : Byte) (set : StationSet) (s : State), set ≠ 0#8 → s.host.outstanding < 4 →
    ∃ t, exec (.reread tag set) s = .next t ∧
      s.Ordered t tag 0x16#8 set (fun i =>
        match (s.station i).state, (s.station i).form with
        | .suspended, _ => .refused .suspended
        | .noForm, _ => .refused .noForm
        | .active, none => .refused .noForm
        | .active, some _ => if (s.station i).slot.isSome = true then .refused .pending else plainOutcome) ∧
      (∀ i x, set.getLsbD i.val = true → (s.station i).state = .active → (s.station i).form = some x →
        (s.station i).slot = none →
        s.Left t i { s.station i with slot := some (composeEntry i .reread true x) } false [] ∧
          (s.station i).LineKept (t.station i)) ∧
      t.events.partFlags = s.events.partFlags ∧ t.events.enables = s.events.enables ∧
      t.events.holdOff = s.events.holdOff ∧
      ∀ i : StationId, t.events.stationFlags[i.val] =
        if set.getLsbD i.val = true ∧ (s.station i).state = .active ∧ (s.station i).form.isSome = true ∧
            (s.station i).slot = none ∧ s.events.enables.getLsbD 0 = true
        then s.events.stationFlags[i.val] ||| 0x01#8 else s.events.stationFlags[i.val]

/-- STATION SET changes the settings it carries, at stations that are not ACTIVE, and a scanner setting resets the
scanner (R106, R150). What the event hands to the line unit, and when the engine chooses, rests on logs 7 and 8. -/
def Obligations.StationSetChangesSettings : Prop :=
  ∀ (tag : Byte) (set : StationSet) (c : SettingsChange) (s : State),
    set ≠ 0#8 → (∀ n, c.timeout = some n → n ≤ 255) → s.host.outstanding < 4 →
    ∃ t, exec (.stationSet tag set c) s = .next t ∧ s.EventsQuiet t ∧
      s.Ordered t tag 0x17#8 set (fun i =>
        if (s.station i).state = .active then .refused .busy else plainOutcome) ∧
      ∀ i, set.getLsbD i.val = true → (s.station i).state ≠ .active →
        let kept : Station := { s.station i with
          settings :=
            ⟨c.typeahead.getD (s.station i).settings.typeahead, c.timeout.getD (s.station i).settings.timeout,
              c.policy.getD (s.station i).settings.policy, c.fallback.getD (s.station i).settings.fallback,
              c.scanner.getD (s.station i).settings.scanner, c.tone.getD (s.station i).settings.tone⟩ }
        (c.scanner = none → s.Left t i kept false [] ∧ (s.station i).LineKept (t.station i)) ∧
        ∀ on, c.scanner = some on →
          let set : Station := { kept with
            line := { (s.station i).line with
              scanErrors := 0, scanner := if on = true then .enabled else .disabled } }
          s.Left t i set false [] ∧ set.LineKept (t.station i)

/-- STATION RESET returns each station of its set to NO-FORM, its settings kept, its scanner by its setting, its event
flags cleared, and its line unit as R169 gives: the line state, the silence timer, the error counters, the message in
flight and the last cursor sent kept, the paint queue emptied, a pending tone dropped, a repaint in progress
abandoned, and repaint-all set, or, on an UP line with nothing in flight, ERASE-SCREEN started at once, the last
cursor sent then 0 (R46, R106, R151, R164, R167, R169; that the engine chooses at the end of the event is log 7, that
ERASE-SCREEN sets the last cursor sent when it starts is log 12, and that a message being received goes on is log
22). -/
def Obligations.StationResetEmptiesTheStation : Prop :=
  ∀ (tag : Byte) (set : StationSet) (s : State), set ≠ 0#8 → s.host.outstanding < 4 →
    ∃ t, exec (.stationReset tag set) s = .next t ∧ s.Ordered t tag 0x18#8 set (fun _ => plainOutcome) ∧
      (∀ i, set.getLsbD i.val = true →
        let line : LineUnit := { (s.station i).line with
          scanErrors := 0
          scanner := if (s.station i).settings.scanner = true then .enabled else .disabled
          tone := none }
        let empty : Station :=
          ⟨.noForm, none, .free, [], none, false, none, (s.station i).settings, List.replicate 40 blank, [], line⟩
        s.Left t i empty true [] ∧ empty.LineKept (t.station i) ∧ (t.station i).line.tone = none ∧
          (t.station i).line.paintQueue = [] ∧
          if line.up = true ∧ line.inFlight = none then
            (t.station i).line.inFlight = some .erase ∧ (t.station i).line.repaint = some 1 ∧
              (t.station i).line.repaintAll = false ∧ (t.station i).line.lastCursor = some 0
          else
            (t.station i).line.inFlight = line.inFlight ∧ (t.station i).line.repaint = none ∧
              (t.station i).line.repaintAll = true ∧ (t.station i).line.lastCursor = line.lastCursor) ∧
      t.events.partFlags = s.events.partFlags ∧ t.events.enables = s.events.enables ∧
      t.events.holdOff = s.events.holdOff ∧
      ∀ i : StationId, t.events.stationFlags[i.val] =
        if set.getLsbD i.val = true then 0#8 else s.events.stationFlags[i.val]

/-- SUSPEND keeps the instance and the keyboard, empties the queue and stops the timer, and is refused PENDING while
an entry, attention or an event flag of the station waits. RESUME returns a SUSPENDED station to ACTIVE with its
instance, the timer of a WAITING keyboard started afresh, or to NO-FORM without one, and changes no other station.
Both ask for a repaint of the whole screen where they change a station (R28, R30, R42, R152, R153). What the event
hands to the line unit, and when the engine chooses, rests on logs 7 and 8. -/
def Obligations.SuspendAndResume : Prop :=
  (∀ (tag : Byte) (set : StationSet) (s : State), set ≠ 0#8 → s.host.outstanding < 4 →
    ∃ t, exec (.suspend tag set) s = .next t ∧ s.EventsQuiet t ∧
      s.Ordered t tag 0x19#8 set (fun i =>
        if (s.station i).state ≠ .suspended ∧ ((s.station i).slot.isSome = true ∨
            (s.station i).attention = true ∨ s.events.stationFlags[i.val] ≠ 0#8) then .refused .pending
        else plainOutcome) ∧
      ∀ i, set.getLsbD i.val = true →
        ((s.station i).state = .suspended →
          s.Left t i (s.station i) false [] ∧ (s.station i).LineKept (t.station i)) ∧
        ((s.station i).state ≠ .suspended → (s.station i).slot = none → (s.station i).attention = false →
          s.events.stationFlags[i.val] = 0#8 →
          s.Left t i
              { s.station i with
                state := .suspended
                queue := []
                timer := none
                form := (s.station i).form.map fun x => { x with settling := false } } true [] ∧
            (s.station i).LineKept (t.station i))) ∧
  ∀ (tag : Byte) (set : StationSet) (s : State), set ≠ 0#8 → s.host.outstanding < 4 →
    ∃ t, exec (.resume tag set) s = .next t ∧ s.EventsQuiet t ∧
      s.Ordered t tag 0x1A#8 set (fun _ => plainOutcome) ∧
      ∀ i, set.getLsbD i.val = true → (s.station i).LineKept (t.station i) ∧
        ((s.station i).state ≠ .suspended → s.Left t i (s.station i) false []) ∧
        ((s.station i).state = .suspended → (s.station i).form = none →
          s.Left t i { s.station i with state := .noForm } true []) ∧
        ∀ x, (s.station i).state = .suspended → (s.station i).form = some x →
          s.Left t i
            { s.station i with
              state := .active
              form := some { x with settling := (s.station i).line.up }
              timer := if (s.station i).keyboard = .waiting ∧ (s.station i).settings.timeout ≠ 0
                then some (s.station i).settings.timeout else (s.station i).timer } true []

/-! ## Polls, status and identity (sections 10.3 and 10.4) -/

/-- POLL SCAN collects every station of its set that holds an entry or attention, in ascending order, and is then
SCANNING; while SCANNING a POLL is refused BUSY (R177, R178, R180). What the event hands to the line unit, and when
the engine chooses, rests on logs 7 and 8. -/
def Obligations.PollScanCollectsTheGroup : Prop :=
  (∀ set : StationSet,
    (members set).Pairwise (· < ·) ∧ ∀ i : StationId, i ∈ members set ↔ set.getLsbD i.val = true) ∧
  ∀ (tag : Byte) (set : StationSet) (s : State), set ≠ 0#8 → s.host.outstanding < 4 →
    ∃ t, exec (.pollScan tag set) s = .next t ∧ t.library = s.library ∧ t.pending = s.pending ∧
      if s.host.polling = .scanning then
        t.host = s.host.answered tag (.refuse 0x20#8 (.code .busy)) ∧ s.EventsQuiet t ∧ s.StationsKept t
      else
        let found := (members set).filter fun i => (s.station i).slot.isSome || (s.station i).attention
        t.host =
            (({ s.host with
                outstanding := s.host.outstanding + 1
                polling := .scanning
                group := set
                pointer := if set = s.host.group then s.host.pointer else (members set).headD 0 } :
              HostLine).send
              (found.map (fun i => ⟨tag, .entry i (s.station i).attention (s.station i).slot, false, true, false⟩) ++
                [⟨tag, .pollEnd found.length, true, true, true⟩])) ∧
          (∀ i, i ∉ found → t.station i = s.station i) ∧
          (∀ i ∈ found, s.Left t i { s.station i with slot := none, attention := false } false [] ∧
            (s.station i).LineKept (t.station i)) ∧
          t.events.partFlags = s.events.partFlags ∧ t.events.enables = s.events.enables ∧
          t.events.holdOff = s.events.holdOff ∧
          ∀ i : StationId, t.events.stationFlags[i.val] =
            if i ∈ found then s.events.stationFlags[i.val] &&& 0xFC#8 else s.events.stationFlags[i.val]

/-- POLL NEXT collects the first waiting station of its set above the pointer, in a circle, and the pointer becomes
it; with none it answers POLL-END 0; while SCANNING it is refused BUSY (R177, R179, R180). What the event hands to
the line unit, and when the engine chooses, rests on logs 7 and 8. -/
def Obligations.PollNextServesInTurn : Prop :=
  ∀ (tag : Byte) (set : StationSet) (s : State), set ≠ 0#8 → s.host.outstanding < 4 →
    ∃ t, exec (.pollNext tag set) s = .next t ∧ t.library = s.library ∧ t.pending = s.pending ∧
      if s.host.polling = .scanning then
        t.host = s.host.answered tag (.refuse 0x20#8 (.code .busy)) ∧ s.EventsQuiet t ∧ s.StationsKept t
      else
        let p := if set = s.host.group then s.host.pointer else (members set).headD 0
        let waits : StationId → Prop := fun i =>
          set.getLsbD i.val = true ∧ ((s.station i).slot.isSome = true ∨ (s.station i).attention = true)
        ((∀ i, ¬waits i) →
          t.host = ({ s.host with group := set, pointer := p } : HostLine).answered tag (.pollEnd 0) ∧
            s.EventsQuiet t ∧ s.StationsKept t) ∧
        ∀ i, waits i →
          (∀ j, waits j → (i.val + 7 - p.val) % 8 ≤ (j.val + 7 - p.val) % 8) →
          t.host = ({ s.host with group := set, pointer := i } : HostLine).answered tag
              (.entry i (s.station i).attention (s.station i).slot) ∧
            s.Left t i { s.station i with slot := none, attention := false } false [] ∧
            (s.station i).LineKept (t.station i) ∧ (∀ j, j ≠ i → t.station j = s.station j) ∧
            t.events = (s.events.clearStation i 0x03#8).drive

/-- STATUS, STATUS for one station and IDENTIFY are answered with what stands, and change no other state. Every
response goes out as a frame whose check makes the sum of its bytes 0, with the payload and the codes that chapter
11 gives it, and every downstream message in its envelope; R195 lists no code for the cause CLASS, which has a free
value (log 21) (R171, R181 to R183, R191, R195 to R199). -/
def Obligations.StatusChangesNothing : Prop :=
  (∀ (tag : Byte) (i : StationId) (s : State), s.host.outstanding < 4 →
    (∃ t, exec (.status tag) s = .next t ∧
      t.host = s.host.answered tag (.accept (.status
        { partFlags := s.events.partFlags, stationFlags := s.events.stationFlags, enables := s.events.enables,
          holdOff := s.events.holdOff.isSome, srq := s.events.srq, checkErrors := s.host.checkErrors,
          lengthErrors := s.host.lengthErrors, overruns := s.host.overruns,
          outstanding := s.host.outstanding + 1, polling := s.host.polling, group := s.host.group,
          pointer := s.host.pointer, generation := s.library.generation, filling := s.library.staged != 0,
          staged := s.library.staged, locks := s.library.locks, forms := s.library.forms.length,
          classes := s.library.classes.length, routes := s.library.routes.length,
          stations := allStations.map fun j => ((s.station j).state, (s.station j).line.up) })) ∧
      s.EventsQuiet t ∧ s.StationsKept t ∧ t.library = s.library ∧ t.pending = s.pending) ∧
    (∃ t r, exec (.stationStatus tag i) s = .next t ∧
      t.host = s.host.answered tag (.accept (.stationStatus r)) ∧
      r.station = i ∧ r.state = (s.station i).state ∧ r.keyboard = (s.station i).keyboard ∧
      r.settling = (s.station i).form.any FormInstance.settling ∧
      r.insert = (s.station i).form.any FormInstance.insert ∧ r.occupied = (s.station i).slot.isSome ∧
      r.attention = (s.station i).attention ∧ r.timerRunning = (s.station i).timer.isSome ∧
      r.form = (s.station i).form.map (fun x =>
        ⟨x.number, x.generation, x.page, x.defn.pages, x.cursor / 80 + 1, x.cursor % 80 + 1⟩) ∧
      r.items = (s.station i).queue.length ∧ r.settings = (s.station i).settings ∧
      r.up = (s.station i).line.up ∧ r.parityErrors = (s.station i).line.parityErrors ∧
      r.framingErrors = (s.station i).line.framingErrors ∧ r.scanErrors = (s.station i).line.scanErrors ∧
      r.scanner = (s.station i).line.scanner ∧ r.spans = (s.station i).line.paintQueue.length ∧
      r.repaintAll = (s.station i).line.repaintAll ∧ r.flags = s.events.stationFlags[i.val] ∧
      s.EventsQuiet t ∧ s.StationsKept t ∧ t.library = s.library ∧ t.pending = s.pending) ∧
    (∃ t, exec (.identify tag) s = .next t ∧ t.host = s.host.answered tag (.accept .identify) ∧
      s.EventsQuiet t ∧ s.StationsKept t ∧ t.library = s.library ∧ t.pending = s.pending)) ∧
  let one : Nat → Byte := fun n => BitVec.ofNat 8 n
  let two : Nat → List Byte := fun n => [BitVec.ofNat 8 (n / 256), BitVec.ofNat 8 n]
  let flag : Bool → Byte := fun b => if b = true then 1#8 else 0#8
  let bit : Bool → Nat → Nat := fun b n => if b = true then n else 0
  (∀ f : TxFrame,
    let kind : Byte :=
      match f.response with
      | .accept _ => 0x80#8
      | .refuse _ _ => 0x81#8
      | .entry _ _ _ => 0x82#8
      | .pollEnd _ => 0x83#8
    let payload := responseBytes f.response
    let body := kind :: f.tag :: (two payload.length ++ payload)
    ∃ hi lo : Byte, f.bytes = 0x5A#8 :: (body ++ [hi, lo]) ∧ byteSum body + halfOf hi lo = 0#16) ∧
  (∀ n, responseBytes (.accept (.stage n)) = [0x01#8, one n] ∧
    responseBytes (.accept (.discard n)) = [0x02#8, one n] ∧ responseBytes (.pollEnd n) = [one n]) ∧
  (∀ g f c r, responseBytes (.accept (.commit g f c r)) = 0x03#8 :: (two g ++ [one f, one c, one r])) ∧
  (∀ kinds, responseBytes (.accept (.lock kinds)) = [0x04#8, kinds.setWidth 8]) ∧
  (∀ kind list, responseBytes (.accept (.outcomes kind list)) =
    kind :: one list.length :: list.flatMap fun m =>
      match m.2 with
      | .refused c => [one m.1.val, refuseCode c]
      | .applied late skipped cut =>
        [one m.1.val, 0x00#8, flag late, one skipped.length] ++
          (skipped.flatMap fun k => [one k.1, match k.2 with | .unknown => 1#8 | .computed => 2#8 | .kept => 3#8]) ++
          one cut.length :: cut.map one) ∧
  (∀ enables, responseBytes (.accept (.enableEvents enables)) = 0x22#8 :: two enables.toNat) ∧
  (∀ part flags, responseBytes (.accept (.clearEvents part flags)) = 0x23#8 :: part.setWidth 8 :: flags.toList) ∧
  responseBytes (.accept .partReset) = [0x25#8] ∧
  responseBytes (.accept .identify) =
    [0x24#8, 3#8, 0x4E#8, 0x38#8, 0x46#8, 1#8, one 8, one 32, one 4, one 96] ++ two 1024 ++
      [one 31, one 16, one 16, one 64, one 4] ++ two 1024 ++ [one 64] ∧
  (∀ r : StatusReport, responseBytes (.accept (.status r)) =
    0x21#8 :: r.partFlags.setWidth 8 :: (r.stationFlags.toList ++ two r.enables.toNat ++
      [flag r.holdOff, flag r.srq] ++ two r.checkErrors ++ two r.lengthErrors ++ two r.overruns ++
      [one r.outstanding, if r.polling = .idle then 0#8 else 1#8, r.group, one r.pointer.val] ++ two r.generation ++
      [flag r.filling, one r.staged, r.locks.setWidth 8, one r.forms, one r.classes, one r.routes] ++
      r.stations.flatMap fun m =>
        [match m.1 with | .noForm => 0#8 | .active => 1#8 | .suspended => 2#8, flag m.2])) ∧
  (∀ r : StationReport, responseBytes (.accept (.stationStatus r)) =
    [0x21#8, one r.station.val, match r.state with | .noForm => 0#8 | .active => 1#8 | .suspended => 2#8,
      match r.keyboard with | .free => 0#8 | .inhibited _ => 1#8 | .waiting => 2#8 | .timedOut => 3#8 | .held => 4#8,
      match r.keyboard with
      | .inhibited .prot => 1#8 | .inhibited .char => 2#8 | .inhibited .full => 3#8 | .inhibited .format => 4#8
      | .inhibited .range => 5#8 | .inhibited .mand => 6#8 | .inhibited .route => 7#8 | .inhibited .pend => 8#8
      | .free | .waiting | .timedOut | .held => 0#8,
      one (bit r.settling 1 + bit r.insert 2 + bit r.occupied 4 + bit r.attention 8 + bit r.timerRunning 16 +
        bit r.form.isSome 32),
      one r.items, flag r.settings.typeahead, one r.settings.timeout, flag (r.settings.policy == .override),
      flag (r.settings.fallback == .wedge), flag r.settings.scanner, flag r.settings.tone, flag r.up] ++
      two r.parityErrors ++ two r.framingErrors ++
      [one r.scanErrors, match r.scanner with | .enabled => 0#8 | .suspended => 1#8 | .disabled => 2#8, one r.spans,
        flag r.repaintAll, r.flags] ++
      match r.form with
      | none => []
      | some f => one f.number :: (two f.generation ++ [one f.page, one f.pages, one f.row, one f.column])) ∧
  (∀ kind c, responseBytes (.refuse kind (.code c)) = [kind, refuseCode c]) ∧
  (∀ kind o, responseBytes (.refuse kind (.invalid o)) =
    [kind, 0x08#8, match o.table with | .form => 1#8 | .cls => 2#8 | .route => 3#8, one o.entry, causeCode o.cause,
      one o.item]) ∧
  (∀ kind n, responseBytes (.refuse kind (.capacity n)) = kind :: 0x09#8 :: two n) ∧
  (∀ p ∈ [(RefuseCode.format, 0x01#8), (.emptySet, 0x02#8), (.length, 0x03#8), (.locked, 0x04#8), (.full, 0x05#8),
      (.noStage, 0x06#8), (.check, 0x07#8), (.busy, 0x0A#8), (.noForm, 0x0B#8), (.suspended, 0x0C#8),
      (.pending, 0x0D#8), (.badPage, 0x0E#8), (.badField, 0x0F#8)], refuseCode p.1 = p.2) ∧
  (∀ p ∈ [(Cause.classDef, 1#8), (.dupField, 2#8), (.dupRule, 3#8), (.initial, 4#8), (.page, 5#8), (.place, 6#8),
      (.overlap, 7#8), (.attr, 8#8), (.width, 9#8), (.default, 10#8), (.source, 11#8), (.target, 12#8),
      (.dupTarget, 13#8), (.cycle, 14#8), (.formRef, 15#8), (.routeField, 16#8)], causeCode p.1 = p.2) ∧
  (∀ i attention, responseBytes (.entry i attention none) = [one i.val, one (bit attention 1)]) ∧
  (∀ i attention e, responseBytes (.entry i attention (some e)) =
    [one i.val, one (bit attention 1 + 2),
      match e.intent with
      | .key .enter => 0x01#8 | .key (.function n) => one (0x11 + n.val) | .key .cancel => 0x20#8
      | .key .clear => 0x21#8 | .reread => 0x30#8,
      one e.page, one e.row, one e.column, e.visited.setWidth 8] ++ two e.generation ++
      one e.touched.length :: (e.touched.flatMap (fun m => one m.1 :: one m.2.length :: m.2)) ++
      one e.computed.length :: e.computed.flatMap fun m =>
        one m.field ::
          (match m.result with | .value _ => 1#8 | .blank => 2#8 | .overflow => 3#8 | .undefined => 4#8) ::
            one m.text.length :: m.text) ∧
  (∀ row column text runs, (Message.paint row column text runs).bytes =
    [0x1E#8, 0x11#8, one (text.length + 2 * runs.length + 4), one row, one column, one text.length] ++ text ++
      one runs.length :: (runs.flatMap fun r =>
        [match r.1 with | .normal => 0#8 | .underline => 1#8 | .bright => 2#8 | .reverse => 3#8, one r.2]) ++
      [0x1F#8]) ∧
  Message.erase.bytes = [0x1E#8, 0x12#8, 0#8, 0x1F#8] ∧
  (∀ row column, (Message.cursor row column).bytes = [0x1E#8, 0x13#8, 2#8, one row, one column, 0x1F#8]) ∧
  (Message.tone .short).bytes = [0x1E#8, 0x14#8, 1#8, 1#8, 0x1F#8] ∧
  (Message.tone .long).bytes = [0x1E#8, 0x14#8, 1#8, 2#8, 0x1F#8]

/-! ## Events (section 10.6) and PART RESET (R184) -/

/-- ENABLE EVENTS takes the enables carried, POWER-ON staying on, and clears the flags of the kinds now off; the
hold-off is not touched. Raising an event makes the flag of its own kind pending when that kind's enable is on, at
its own station for a per-station kind, by the kind numbers of R194, and changes nothing else; clearing flags of a
station touches those alone (R180, R186, R187, R194). -/
def Obligations.EnableEventsClearsDisabledKinds : Prop :=
  (∀ (tag : Byte) (enables : BitVec 11) (s : State), s.host.outstanding < 4 →
    ∃ t, exec (.enableEvents tag enables) s = .next t ∧
      t.events.enables = enables ||| 0b00100000000#11 ∧ t.events.holdOff = s.events.holdOff ∧
      (∀ (i : StationId) (k : Fin 8), t.events.stationFlags[i.val].getLsbD k.val =
        (s.events.stationFlags[i.val].getLsbD k.val && enables.getLsbD k.val)) ∧
      t.events.partFlags.getLsbD 0 = s.events.partFlags.getLsbD 0 ∧
      t.events.partFlags.getLsbD 1 = (s.events.partFlags.getLsbD 1 && enables.getLsbD 9) ∧
      t.events.partFlags.getLsbD 2 = (s.events.partFlags.getLsbD 2 && enables.getLsbD 10) ∧
      t.events.Sound ∧ t.host = s.host.answered tag (.accept (.enableEvents t.events.enables)) ∧
      s.StationsKept t ∧ t.library = s.library ∧ t.pending = s.pending) ∧
  (∀ (e : EventUnit) (i : StationId) (k : StationEvent),
    let e' := e.raiseStation i k
    e'.partFlags = e.partFlags ∧ e'.enables = e.enables ∧ e'.holdOff = e.holdOff ∧ e'.srq = e.srq ∧
    ∀ (j : StationId) (n : Fin 8),
      (e'.stationFlags[j.val].getLsbD n.val = true ↔
        e.stationFlags[j.val].getLsbD n.val = true ∨
          (j = i ∧ e.enables.getLsbD n.val = true ∧
            [StationEvent.entryReady, .attention, .responseTimeout, .entryOverrun, .keyOverrun, .scannerSuspended,
              .lineDown, .lineUp][n.val]? = some k))) ∧
  (∀ (e : EventUnit) (i : StationId) (mask : BitVec 8),
    let e' := e.clearStation i mask
    e'.partFlags = e.partFlags ∧ e'.enables = e.enables ∧ e'.holdOff = e.holdOff ∧ e'.srq = e.srq ∧
    ∀ j : StationId, e'.stationFlags[j.val] =
      if j = i then e.stationFlags[j.val] &&& ~~~mask else e.stationFlags[j.val]) ∧
  ∀ (e : EventUnit) (k : PartEvent),
    let e' := e.raisePart k
    e'.stationFlags = e.stationFlags ∧ e'.enables = e.enables ∧ e'.holdOff = e.holdOff ∧ e'.srq = e.srq ∧
    ∀ n : Fin 3,
      (e'.partFlags.getLsbD n.val = true ↔
        e.partFlags.getLsbD n.val = true ∨
          (e.enables.getLsbD (8 + n.val) = true ∧
            [PartEvent.powerOn, .hostOverrun, .frameError][n.val]? = some k))

/-- CLEAR EVENTS clears the flags it names, starts the hold-off from 200 ms, negates SRQ and answers the flags
still pending; the hold-off's expiry stops it, and SRQ is then asserted when a flag is pending (R188, R189). -/
def Obligations.ClearEventsHoldsSrqOff : Prop :=
  (∀ (tag : Byte) (part : BitVec 3) (flags : Vector (BitVec 8) 8) (s : State), s.host.outstanding < 4 →
    ∃ t, exec (.clearEvents tag part flags) s = .next t ∧
      t.events.partFlags = s.events.partFlags &&& ~~~part ∧
      (∀ i : StationId, t.events.stationFlags[i.val] = s.events.stationFlags[i.val] &&& ~~~flags[i.val]) ∧
      t.events.enables = s.events.enables ∧ t.events.holdOff = some 200 ∧ t.events.srq = false ∧
      t.host = s.host.answered tag (.accept (.clearEvents t.events.partFlags t.events.stationFlags)) ∧
      s.StationsKept t ∧ t.library = s.library ∧ t.pending = s.pending) ∧
  ∀ s : State, s.events.holdOff.isSome = true →
    ∃ t, exec .holdOffExpiry s = .next t ∧ t.events.holdOff = none ∧
      (t.events.srq = true ↔ s.events.partFlags ≠ 0#3 ∨ ∃ i : StationId, s.events.stationFlags[i.val] ≠ 0#8) ∧
      t.events.partFlags = s.events.partFlags ∧ t.events.stationFlags = s.events.stationFlags ∧
      t.events.enables = s.events.enables ∧ t.host = s.host ∧ s.StationsKept t ∧ t.library = s.library ∧
      t.pending = s.pending

/-- PART RESET: staging emptied, the transmit queue emptied and the frame in transmission no longer counted, polling
IDLE, every flag and the hold-off cleared; the active tables, the locks, the generation, the settings, the enables,
the host's error counters, the group and the pointer kept; every composer in NO-FORM, and every line unit as R169
gives: the line state, the silence timer, the message in flight and the last cursor sent kept, the counters 0, the
scanner by its setting, the paint queue emptied, a pending tone dropped, a repaint in progress abandoned, and
repaint-all set, or, on an UP line with nothing in flight, ERASE-SCREEN started at once, the last cursor sent then 0
(R46, R164, R167, R169, R184; that the engine chooses at the end of the event is log 7, that ERASE-SCREEN sets the
last cursor sent when it starts is log 12, and that a message being received goes on is log 22). -/
def Obligations.PartResetResetsEveryBlock : Prop :=
  ∀ (tag : Byte) (s : State), s.host.outstanding < 4 →
    ∃ t, exec (.partReset tag) s = .next t ∧ t.pending = s.pending ∧
      t.library = { s.library with stagedForms := [], stagedClasses := [], stagedRoutes := [], sum := 0#16 } ∧
      t.events = ⟨0#3, Vector.replicate 8 0#8, s.events.enables, none, false⟩ ∧
      t.host = (({ s.host with
            txQueue := []
            inTx := s.host.inTx.map fun f => { f with counted := false }
            polling := .idle
            outstanding := 1 } : HostLine).send [answerFrame tag (.accept .partReset)]) ∧
      ∀ i,
        let line : LineUnit := { (s.station i).line with
          scanErrors := 0
          scanner := if (s.station i).settings.scanner = true then .enabled else .disabled
          parityErrors := 0
          framingErrors := 0
          tone := none }
        let empty : Station :=
          ⟨.noForm, none, .free, [], none, false, none, (s.station i).settings, List.replicate 40 blank, [], line⟩
        s.Left t i empty true [] ∧ empty.LineKept (t.station i) ∧ (t.station i).line.tone = none ∧
          (t.station i).line.paintQueue = [] ∧
          if line.up = true ∧ line.inFlight = none then
            (t.station i).line.inFlight = some .erase ∧ (t.station i).line.repaint = some 1 ∧
              (t.station i).line.repaintAll = false ∧ (t.station i).line.lastCursor = some 0
          else
            (t.station i).line.inFlight = line.inFlight ∧ (t.station i).line.repaint = none ∧
              (t.station i).line.repaintAll = true ∧ (t.station i).line.lastCursor = line.lastCursor

/-! ## Station lines (chapters 6 and 9) -/

/-- KEY: the line is UP and its silence timer runs afresh, and the item of the code joins the queue of an ACTIVE
station that has room, in WAITING and HELD only with typeahead on; in ACTIVE an item that does not join asks a short
tone, and a full queue raises KEY-OVERRUN. A DOWN line raises LINE-UP and starts its repaint of the whole screen
before the item is handed on, whatever tone that asks. The items of the key codes are those of R199 (R48, R157, R159,
R160, R199; that the row leaves the receiver is log 22, and that the ERASE-SCREEN of that repaint sets the last cursor
sent when it starts is log 12). What the event hands to the line unit, and when the engine chooses, rests on logs 7
and 8. -/
def Obligations.KeysJoinTheQueue : Prop :=
  (∀ (i : StationId) (code : Byte) (it : Item) (s : State), keyItem code = some it →
    let st := s.station i
    let joins := st.state = .active ∧ st.joins = true ∧ st.queue.length < 16
    let after : Station := { st with queue := if joins then st.queue ++ [it] else st.queue }
    ∃ t, exec (.key i code) s = .next t ∧ s.OthersKept t i ∧ (t.station i).composer = after.composer ∧
      ({ st with line := st.line.heard } : Station).LineKept (t.station i) ∧
      (st.line.DownSound →
        s.Left t i { after with line := st.line.heard } false
          (if st.state = .active ∧ ¬joins then [.short] else [])) ∧
      (st.line.DownSound → st.line.up = false → (t.station i).line.StartsRepaint) ∧
      t.events =
        (let e := if st.line.up = true then s.events else s.events.raiseStation i .lineUp
         if st.state = .active ∧ st.joins = true ∧ 16 ≤ st.queue.length
         then e.raiseStation i .keyOverrun else e).drive) ∧
  (∀ st : Station, st.joins = true ↔
    (st.keyboard = .free ∨ (∃ r, st.keyboard = .inhibited r) ∨ st.keyboard = .timedOut ∨
      ((st.keyboard = .waiting ∨ st.keyboard = .held) ∧ st.settings.typeahead = true))) ∧
  ∀ (code : Byte) (it : Item), keyItem code = some it ↔
    (0x20 ≤ code.toNat ∧ code.toNat ≤ 0x7E ∧ it = .char code) ∨
    (∃ n : Fin 12, code.toNat = 0xB1 + n.val ∧ it = .intent (.function n)) ∨
    (code, it) ∈ [(0x80#8, Item.edit .insert), (0x81#8, .edit .delete), (0x82#8, .edit .backspace),
      (0x83#8, .edit .eraseField), (0x84#8, .edit .eraseInput), (0x90#8, .move .tab), (0x91#8, .move .backtab),
      (0x92#8, .move .up), (0x93#8, .move .down), (0x94#8, .move .left), (0x95#8, .move .right),
      (0x96#8, .move .home), (0x97#8, .move .newline), (0x98#8, .move .pageNext), (0x99#8, .move .pagePrior),
      (0xA0#8, .reset), (0xB0#8, .intent .enter), (0xBD#8, .intent .cancel), (0xBE#8, .intent .clear)]

/-- SCAN: counted while the scanner is ENABLED and the station not SUSPENDED, a bad one up, a good one down and
offered to the key queue, where one that does not join asks a short tone; the 32nd suspends the scanner and raises
SCANNER-SUSPENDED. A DOWN line raises LINE-UP and starts its repaint of the whole screen before the message is handed
on (R48, R104, R105, R157, R159; that the row leaves the receiver is log 22, and that the ERASE-SCREEN of that repaint
sets the last cursor sent when it starts is log 12). What the event hands to the line unit, and when the engine
chooses, rests on logs 7 and 8. -/
def Obligations.ScansAreCounted : Prop :=
  ∀ (i : StationId) (good : Bool) (text : List Byte) (s : State), scanFits good text = true →
    let st := s.station i
    let counted := st.line.scanner = .enabled ∧ st.state ≠ .suspended
    let offered := counted ∧ good = true ∧ st.state = .active
    let joins := offered ∧ st.joins = true ∧ st.queue.length < 16
    let after : Station := { st with queue := if joins then st.queue ++ [.scan text] else st.queue }
    let line : LineUnit := { st.line.heard with
      scanErrors := if ¬counted then st.line.scanErrors else if good = true then st.line.scanErrors - 1
        else min (st.line.scanErrors + 1) 32
      scanner := if counted ∧ good = false ∧ 31 ≤ st.line.scanErrors then .suspended else st.line.scanner }
    ∃ t, exec (.scan i good text) s = .next t ∧ s.OthersKept t i ∧ (t.station i).composer = after.composer ∧
      ({ st with line := line } : Station).LineKept (t.station i) ∧
      (st.line.DownSound →
        s.Left t i { after with line := line } false (if offered ∧ ¬joins then [.short] else [])) ∧
      (st.line.DownSound → st.line.up = false → (t.station i).line.StartsRepaint) ∧
      t.events =
        (let e := if st.line.up = true then s.events else s.events.raiseStation i .lineUp
         let e' := if counted ∧ good = false ∧ 31 ≤ st.line.scanErrors
           then e.raiseStation i .scannerSuspended else e
         if offered ∧ st.joins = true ∧ 16 ≤ st.queue.length then e'.raiseStation i .keyOverrun else e').drive

/-- ATTN sets a clear attention flag of an ACTIVE station and raises ATTENTION; ALIVE hands nothing on. Both bring the
line UP; a DOWN line raises LINE-UP and starts its repaint of the whole screen (R129, R155, R157, R159; that the rows
leave the receiver is log 22, and that the ERASE-SCREEN of that repaint sets the last cursor sent when it starts is
log 12). What the event hands to the line unit, and when the engine chooses, rests on logs 7 and 8. -/
def Obligations.AttnAndAlive : Prop :=
  ∀ (i : StationId) (s : State),
    let st := s.station i
    let heard : Station := { st with line := st.line.heard }
    let attended : Station := { st with attention := if st.state = .active then true else st.attention }
    (∃ t, exec (.attn i) s = .next t ∧ s.OthersKept t i ∧ (t.station i).composer = attended.composer ∧
      heard.LineKept (t.station i) ∧
      (st.line.DownSound → s.Left t i { attended with line := st.line.heard } false []) ∧
      (st.line.DownSound → st.line.up = false → (t.station i).line.StartsRepaint) ∧
      t.events =
        (let e := if st.line.up = true then s.events else s.events.raiseStation i .lineUp
         if st.state = .active ∧ st.attention = false then e.raiseStation i .attention else e).drive) ∧
    (∃ t, exec (.alive i) s = .next t ∧ s.OthersKept t i ∧ (t.station i).composer = st.composer ∧
      heard.LineKept (t.station i) ∧
      (st.line.DownSound → s.Left t i heard false []) ∧
      (st.line.DownSound → st.line.up = false → (t.station i).line.StartsRepaint) ∧
      t.events = (if st.line.up = true then s.events else s.events.raiseStation i .lineUp).drive)

/-- The bytes of a station line. A waiting receiver discards bytes uncounted until a start byte; from there it reads
the type, the length and as many body bytes, and takes the next byte in the place of the end byte. A message with a
byte marked for parity is counted once as a parity error; one with a byte marked for framing, a wrong end byte or
one that does not decode, once as a framing error; nothing else changes. An undamaged one does what its row does.
Bytes may be received in any number of commands. What decodes is what R155 and R199 list (R155, R156, R199; that
the bytes are the operand of DAMAGED_MESSAGE, and how the receiver takes a marked start byte, are logs 16 and
22). -/
def Obligations.DamagedMessagesAreCounted : Prop :=
  (∀ (i : StationId) (s : State) (noise : List LineByte) (start type length fin : LineByte) (body : List LineByte),
    (s.station i).line.receiver = .waiting → (∀ b ∈ noise, b.value ≠ 0x1E#8) → start.value = 0x1E#8 →
    body.length = length.value.toNat →
    let message := start :: type :: length :: (body ++ [fin])
    let parity := ∃ b ∈ message, b.parity = true
    let framing := ∃ b ∈ message, b.framing = true
    let values := body.map LineByte.value
    let run := exec (.damagedMessage i (noise ++ message)) s
    (parity → ∃ t, run = .next t ∧ s.OthersKept t i ∧ s.EventsQuiet t ∧
      t.station i =
        { s.station i with
          line := { (s.station i).line with
            parityErrors := min ((s.station i).line.parityErrors + 1) 65535 } }) ∧
    (¬parity → (framing ∨ fin.value ≠ 0x1F#8 ∨ decodeUpstream type.value values = none) →
      ∃ t, run = .next t ∧ s.OthersKept t i ∧ s.EventsQuiet t ∧
        t.station i =
          { s.station i with
            line := { (s.station i).line with
              framingErrors := min ((s.station i).line.framingErrors + 1) 65535 } }) ∧
    (¬parity → ¬framing → fin.value = 0x1F#8 →
      (∀ code it, type.value = 0x01#8 → values = [code] → keyItem code = some it → run = exec (.key i code) s) ∧
      (∀ good text, type.value = 0x02#8 → values = (if good = true then 1#8 else 0#8) :: text →
        scanFits good text = true → run = exec (.scan i good text) s) ∧
      (type.value = 0x03#8 → values = [] → run = exec (.attn i) s) ∧
      (type.value = 0x04#8 → values = [] → run = exec (.alive i) s))) ∧
  (∀ (i : StationId) (s : State) (noise : List LineByte), (s.station i).line.receiver = .waiting →
    (∀ b ∈ noise, b.value ≠ 0x1E#8) →
    exec (.damagedMessage i noise) s = .next { s with events := s.events.drive }) ∧
  (∀ (i : StationId) (s : State) (a b : List LineByte),
    ∃ t, exec (.damagedMessage i a) s = .next t ∧
      exec (.damagedMessage i (a ++ b)) s = exec (.damagedMessage i b) t) ∧
  ∀ (type : Byte) (body : List Byte) (u : Upstream), decodeUpstream type body = some u ↔
    (∃ code it, type = 0x01#8 ∧ body = [code] ∧ keyItem code = some it ∧ u = .key it) ∨
    (∃ text, type = 0x02#8 ∧ body = 1#8 :: text ∧ 1 ≤ text.length ∧ text.length ≤ 48 ∧
      (∀ c ∈ text, 0x20 ≤ c.toNat ∧ c.toNat ≤ 0x7E) ∧ u = .scan true text) ∨
    (∃ text, type = 0x02#8 ∧ body = 0#8 :: text ∧ text.length ≤ 48 ∧ u = .scan false text) ∨
    (type = 0x03#8 ∧ body = [] ∧ u = .attn) ∨ (type = 0x04#8 ∧ body = [] ∧ u = .alive)

/-- The silence timer's expiry takes the line DOWN: nothing in flight, repaint-all alone pending, the key queue
emptied, settling cleared, LINE-DOWN raised, and the counters, the scanner and the response timer kept
(R157, R158; that a message being received goes on is log 22). -/
def Obligations.SilenceTakesTheLineDown : Prop :=
  ∀ (i : StationId) (s : State), (s.station i).line.silence.isSome = true →
    ∃ t, exec (.silenceTimerExpiry i) s = .next t ∧ s.OthersKept t i ∧ s.EventsRaised t i .lineDown ∧
      (t.station i).composer =
        ({ s.station i with
            queue := []
            form := (s.station i).form.map fun x => { x with settling := false } } : Station).composer ∧
      (t.station i).line =
        { (s.station i).line with
          up := false, silence := none, paintQueue := [], repaintAll := true, inFlight := none,
          repaint := none, tone := none, lastCursor := none }

/-- A downstream message completes: it leaves flight, after the PAINT of row 24 of a repaint the report clears
settling, and the paint engine chooses the next message by the first order that applies. Starting a message changes
nothing else of the line unit: a TONE leaves the repaint, the spans and the last cursor as they are; a row of a
repaint the tone, the spans and the last cursor; a span and a CURSOR all else. The engine chooses nothing on a DOWN
line or while a message is in flight. A PAINT carries its span's row and first column, the characters of the image
there as their text, and as its runs the renditions, no two neighbouring runs of one; a whole row is columns 1 to 80;
the cursor shown is the instance cursor in ACTIVE, else 0 (R37, R154, R164 to R167; that it chooses at the end of the
event is log 7, and that ERASE-SCREEN sets the last cursor sent when it starts is log 12). -/
def Obligations.TransmissionCompleteSendsTheNext : Prop :=
  (∀ (img : Image) (p : Span), img.length = 24 → (∀ row ∈ img, row.length = 80) → p.OnScreen →
    ∃ text runs, paintOf img p = .paint p.row p.first text runs ∧ text.length = p.last + 1 - p.first ∧
      (∀ k, k < text.length → ∃ row at_, img[p.row - 1]? = some row ∧ row[p.first - 1 + k]? = some at_ ∧
        text[k]? = some at_.char ∧
          (runs.flatMap fun r : Rendition × Nat => List.replicate r.2 r.1)[k]? = some at_.rend) ∧
      (runs.map Prod.snd).sum = text.length ∧ (∀ r ∈ runs, 1 ≤ r.2) ∧
      ∀ a q r b, runs = a ++ q :: r :: b → q.1 ≠ r.1) ∧
  (∀ r, wholeRow r = ⟨r, 1, 80⟩) ∧
  (∀ st : Station,
    (∀ x, st.state = .active → st.form = some x → st.cursorShown = x.cursor) ∧
    (st.state ≠ .active → st.cursorShown = 0)) ∧
  let starts : LineUnit → Image → Nat → LineUnit → Prop := fun l img cursor l' =>
    (∀ tone, l.tone = some tone → l' = { l with tone := none, inFlight := some (.tone tone) }) ∧
    (∀ r, l.tone = none → l.repaint = some r → r ≤ 24 →
      l' = { l with repaint := some (r + 1), inFlight := some (paintOf img (wholeRow r)) }) ∧
    (l.tone = none → l.repaint = none →
      (l.repaintAll = true →
        l' = { l with repaintAll := false, repaint := some 1, inFlight := some .erase, lastCursor := some 0 }) ∧
      (l.repaintAll = false →
        (∀ a p b, l.paintQueue = a ++ p :: b → p.row = 24 → (∀ q ∈ a, q.row ≠ 24) →
          l' = { l with paintQueue := a ++ b, inFlight := some (paintOf img p) }) ∧
        (∀ p b, l.paintQueue = p :: b → (∀ q ∈ l.paintQueue, q.row ≠ 24) →
          l' = { l with paintQueue := b, inFlight := some (paintOf img p) }) ∧
        (l.paintQueue = [] →
          l' = if l.lastCursor = some cursor then l
            else
              { l with lastCursor := some cursor, inFlight := some (.cursor (cursor / 80 + 1) (cursor % 80 + 1)) })))
  (∀ (l : LineUnit) (img : Image) (cursor : Nat),
    (l.up = false ∨ l.inFlight.isSome = true → l.engine img cursor = l) ∧
    (l.up = true → l.inFlight = none → starts l img cursor (l.engine img cursor))) ∧
  ∀ (i : StationId) (s : State),
    (s.station i).line.inFlight.isSome = true → (s.station i).line.up = true → (s.station i).Pictured →
    (∀ r, (s.station i).line.repaint = some r → r ≤ 25) →
    ∃ t, exec (.transmissionComplete i) s = .next t ∧ s.OthersKept t i ∧ s.EventsQuiet t ∧
      (s.station i).LineKept (t.station i) ∧
      (t.station i).composer =
        ({ s.station i with
            form := if (s.station i).line.repaint = some 25
              then (s.station i).form.map fun x => { x with settling := false } else (s.station i).form } :
          Station).composer ∧
      let l := (s.station i).line
      starts { l with inFlight := none, repaint := if l.repaint = some 25 then none else l.repaint }
        (s.station i).image (s.station i).cursorShown (t.station i).line

/-- The response timer's expiry stops it, makes a WAITING keyboard TIMED-OUT and raises RESPONSE-TIMEOUT (R127).
What the event hands to the line unit, and when the engine chooses, rests on logs 7 and 8. -/
def Obligations.ResponseTimerExpires : Prop :=
  ∀ (i : StationId) (s : State), (s.station i).timer.isSome = true →
    ∃ t, exec (.responseTimerExpiry i) s = .next t ∧ s.EventsRaised t i .responseTimeout ∧
      s.Made t i { s.station i with
        timer := none
        keyboard := if (s.station i).keyboard = .waiting then .timedOut else (s.station i).keyboard }

/-! ## Keying (chapter 3) -/

/-- CHAR: outside an input field INHIBITED PROT; a character its class does not admit, marked and INHIBITED CHAR; in
insert mode without room INHIBITED FULL, each with a long tone; else the folded character placed, the field touched
and unmarked, the rules downstream run, and the cursor one position on, or a guarded TAB from the last position of a
SKIP field. Placing leaves the content's length: overtype sets the position alone; insertion sets it, moves the
characters from it on one to the right and drops the last. A class with the fold flag changes small letters to
capitals. What each kind of class admits is R55's table; that in insert mode every "." of the content counts is log
11 (R52, R55 to R58, R73). What the event hands to the line unit, and when the engine chooses, rests on logs 7 and
8. -/
def Obligations.CharactersAreEntered : Prop :=
  (∀ (i : StationId) (s : State) (x : FormInstance) (c : Byte) (q : List Item), s.Takes i x (.char c) q →
    ∃ t, exec (.char i) s = .next t ∧ s.EventsQuiet t ∧
      (x.inputAtCursor = none →
        s.Made t i { s.station i with queue := q, keyboard := .inhibited .prot } false [.long]) ∧
      ∀ f, x.inputAtCursor = some f →
        let off := x.cursor - f.start
        let c' := foldedFor (x.classOf f) c
        let y := (x.modField f.defn.number fun g =>
          { g with content := placed x.insert f.content off c', touched := true, mark := none }).recompute
            [f.defn.number]
        (admits (x.classOf f) x.insert f.content off c' = false →
          s.Made t i { s.station i with
            queue := q, keyboard := .inhibited .char, form := some (x.mark f.defn.number .char) } false [.long]) ∧
        (admits (x.classOf f) x.insert f.content off c' = true → x.insert = true →
          f.content.getLast? ≠ some blank →
          s.Made t i { s.station i with queue := q, keyboard := .inhibited .full } false [.long]) ∧
        (admits (x.classOf f) x.insert f.content off c' = true →
          (x.insert = false ∨ f.content.getLast? = some blank) →
          (off + 1 ≠ f.defn.length ∨ f.defn.skip = false →
            s.Made t i { s.station i with
              queue := q, form := some { y with cursor := (x.cursor + 1) % 1840 } }) ∧
          (off + 1 = f.defn.length → f.defn.skip = true →
            s.Made t i { s.station i with
              queue := q
              form := some (y.guardedTo (y.tabFrom x.cursor))
              keyboard := y.guardedKeyboard (y.tabFrom x.cursor) } false (y.guardedTones (y.tabFrom x.cursor))))) ∧
  (∀ (t : List Byte) (off : Nat) (c : Byte), off < t.length →
    (placed false t off c).length = t.length ∧ (placed true t off c).length = t.length ∧
      (placed false t off c)[off]? = some c ∧ (placed true t off c)[off]? = some c ∧
      (∀ n, n ≠ off → (placed false t off c)[n]? = t[n]?) ∧
      (∀ n, n < off → (placed true t off c)[n]? = t[n]?) ∧
      ∀ n, off ≤ n → n + 1 < t.length → (placed true t off c)[n + 1]? = t[n]?) ∧
  (∀ c : Byte, foldedFor none c = c ∧
    ∀ d : ClassDef, (foldedFor (some d) c).toNat =
      if d.fold = true ∧ 0x61 ≤ c.toNat ∧ c.toNat ≤ 0x7A then c.toNat - 0x20 else c.toNat) ∧
  ∀ (insert : Bool) (t : List Byte) (off : Nat) (c : Byte), off < t.length →
    let digit := 0x30 ≤ c.toNat ∧ c.toNat ≤ 0x39
    let letter := (0x41 ≤ c.toNat ∧ c.toNat ≤ 0x5A) ∨ (0x61 ≤ c.toNat ∧ c.toNat ≤ 0x7A)
    admits none insert t off c = true ∧
    ∀ d : ClassDef, admits (some d) insert t off c = true ↔
      d.kind = .text ∨ (d.kind = .alpha ∧ (letter ∨ c = 0x20#8)) ∨ (d.kind = .digits ∧ digit) ∨
        (d.kind = .decimal ∧
          (digit ∨ (c = 0x2D#8 ∧ d.signed = true) ∨
            (c = 0x2E#8 ∧ 1 ≤ d.places ∧
              if insert = true then 0x2E#8 ∉ t else ∀ n, n ≠ off → t[n]? ≠ some 0x2E#8)))

/-- INSERT toggles insert mode; DELETE and ERASE-FIELD edit the input field under the cursor, touching it, leaving
its mark and running the rules downstream, and outside every input field make the keyboard INHIBITED PROT, with a
long tone. BACKSPACE inside an input field moves left and deletes there; elsewhere it is a guarded LEFT. ERASE-INPUT
blanks every input field of the current page, untouched and unmarked, runs the rules downstream and moves the cursor
as HOME (R52, R63 to R67). What the event hands to the line unit, and when the engine chooses, rests on logs 7 and
8. -/
def Obligations.EditKeysChangeContents : Prop :=
  (∀ (i : StationId) (s : State) (x : FormInstance) (q : List Item),
    (s.Takes i x (.edit .insert) q →
      ∃ t, exec (.insert i) s = .next t ∧ s.EventsQuiet t ∧
        s.Made t i { s.station i with queue := q, form := some { x with insert := !x.insert } }) ∧
    (s.Takes i x (.edit .delete) q →
      ∃ t, exec (.delete i) s = .next t ∧ s.EventsQuiet t ∧
        (x.inputAtCursor = none →
          s.Made t i { s.station i with queue := q, keyboard := .inhibited .prot } false [.long]) ∧
        ∀ f, x.inputAtCursor = some f →
          s.Made t i { s.station i with
            queue := q
            form := some ((x.modField f.defn.number fun g =>
              { g with
                content := f.content.take (x.cursor - f.start) ++ (f.content.drop (x.cursor - f.start + 1) ++ [blank])
                touched := true }).recompute [f.defn.number]) }) ∧
    (s.Takes i x (.edit .eraseField) q →
      ∃ t, exec (.eraseField i) s = .next t ∧ s.EventsQuiet t ∧
        (x.inputAtCursor = none →
          s.Made t i { s.station i with queue := q, keyboard := .inhibited .prot } false [.long]) ∧
        ∀ f, x.inputAtCursor = some f →
          s.Made t i { s.station i with
            queue := q
            form := some ((x.modField f.defn.number fun g =>
              { g with
                content := f.content.take (x.cursor - f.start) ++
                  List.replicate (f.content.length - (x.cursor - f.start)) blank
                touched := true }).recompute [f.defn.number]) })) ∧
  ∀ (i : StationId) (s : State) (x : FormInstance) (q : List Item), x.cursor < 1840 →
    (s.Takes i x (.edit .backspace) q →
      ∃ t, exec (.backspace i) s = .next t ∧ s.EventsQuiet t ∧
        let left := if x.cursor = 0 then 1839 else x.cursor - 1
        ((∀ f, x.inputAtCursor = some f → f.covers left = false) →
          s.Made t i { s.station i with
            queue := q, form := some (x.guardedTo left), keyboard := x.guardedKeyboard left } false
            (x.guardedTones left)) ∧
        ∀ f, x.inputAtCursor = some f → f.covers left = true →
          ({ x with cursor := left } : FormInstance).inputAtCursor = some f →
          s.Made t i { s.station i with
            queue := q
            form := some ((({ x with cursor := left } : FormInstance).modField f.defn.number fun g =>
              { g with
                content := f.content.take (left - f.start) ++ (f.content.drop (left - f.start + 1) ++ [blank])
                touched := true }).recompute [f.defn.number]) }) ∧
    (s.Takes i x (.edit .eraseInput) q →
      ∃ t, exec (.eraseInput i) s = .next t ∧ s.EventsQuiet t ∧
        let hit : FieldRec → Bool := fun f => f.kind == .input && f.defn.page == x.page
        let y := (x.modFields hit fun f =>
          { f with content := padCut f.defn.length [], touched := false, mark := none }).recompute
            ((x.fields.filter hit).map fun f => f.defn.number)
        s.Made t i { s.station i with
          queue := q, form := some { y with cursor := firstStart (y.inputsOn x.page) } })

/-- UP, DOWN, LEFT and RIGHT move by one row or one position around the form area, guarded by the exit check: when
the field under the cursor is a touched input field and the destination is not one of its positions, the class
check, then the fill check, judges its content by the copy of its class; the first that fails marks the field, makes
the keyboard INHIBITED with the mark's reason and asks a long tone, and the cursor stays (R52, R54, R59, R60, R72,
R74, R81, R83, R86). What the event hands to the line unit, and when the engine chooses, rests on logs 7 and 8. -/
def Obligations.CursorKeysMoveAndWrap : Prop :=
  (∀ (i : StationId) (s : State) (x : FormInstance) (q : List Item), x.cursor < 1840 →
    let moves : Instr → Nat → Prop := fun c dest =>
      ∃ t, exec c s = .next t ∧ s.EventsQuiet t ∧
        s.Made t i { s.station i with
          queue := q, form := some (x.guardedTo dest), keyboard := x.guardedKeyboard dest } false
          (x.guardedTones dest)
    (s.Takes i x (.move .up) q → moves (.up i) (if x.cursor < 80 then x.cursor + 1760 else x.cursor - 80)) ∧
    (s.Takes i x (.move .down) q → moves (.down i) (if x.cursor < 1760 then x.cursor + 80 else x.cursor - 1760)) ∧
    (s.Takes i x (.move .left) q → moves (.left i) (if x.cursor = 0 then 1839 else x.cursor - 1)) ∧
    (s.Takes i x (.move .right) q → moves (.right i) (if x.cursor = 1839 then 0 else x.cursor + 1))) ∧
  (∀ (x : FormInstance) (n : Nat) (m : Mark),
    x.mark n m =
      { x with fields := x.fields.map fun f => if f.defn.number = n then { f with mark := some m } else f }) ∧
  (∀ m : Mark,
    markReason m = match m with
      | .char => .char | .format => .format | .rangeLow => .range | .rangeHigh => .range | .mandatory => .mand) ∧
  (∀ c : Byte, isLetter c = true ↔
    (0x41 ≤ c.toNat ∧ c.toNat ≤ 0x5A) ∨ (0x61 ≤ c.toNat ∧ c.toNat ≤ 0x7A)) ∧
  (∀ (x : FormInstance) (dest : Nat) (n : Nat) (m : Mark),
    let inside : FieldRec → Bool := fun f => f.covers dest
    (x.departure inside = some (n, m) →
      x.guardedTo dest = x.mark n m ∧ x.guardedTones dest = [.long] ∧
        x.guardedKeyboard dest = .inhibited (markReason m)) ∧
    (x.departure inside = none →
      x.guardedTo dest = { x with cursor := dest } ∧ x.guardedTones dest = [] ∧ x.guardedKeyboard dest = .free)) ∧
  (∀ (x : FormInstance) (inside : FieldRec → Bool) (n : Nat) (m : Mark),
    x.departure inside = some (n, m) ↔
      ∃ f, x.inputAtCursor = some f ∧ f.touched = true ∧ inside f = false ∧
        exitMark (x.classOf f) f.content = some m ∧ f.defn.number = n) ∧
  (∀ (x : FormInstance) (f : FieldRec),
    x.classOf f = (if f.defn.cls = 0 then none else lookupKey f.defn.cls x.classes) ∧
    f.start = (f.defn.row - 1) * 80 + (f.defn.column - 1) ∧
    (∀ p, f.covers p = true ↔ f.start ≤ p ∧ p < f.start + f.defn.length) ∧
    (x.inputAtCursor = some f →
      f ∈ x.fields ∧ f.defn.page = x.page ∧ f.covers x.cursor = true ∧ f.kind = .input) ∧
    (f ∈ x.fields → f.defn.page = x.page → f.covers x.cursor = true → f.kind = .input →
      (∀ g ∈ x.fields, g.defn.page = x.page → g.covers x.cursor = true → g = f) → x.inputAtCursor = some f)) ∧
  ∀ t : List Byte, exitMark none t = none ∧
    ∀ (d : ClassDef) (m : Mark), exitMark (some d) t = some m ↔
      FirstHolds
        [(d.kind = .alpha ∧ ∃ c ∈ t, isLetter c = false ∧ c ≠ blank, .char),
          (d.kind = .digits ∧ numericReading 0 false t = .format, .format),
          (d.kind = .decimal ∧ numericReading d.places d.signed t = .format, .format),
          (d.mandatoryFill = true ∧ (∃ c ∈ t, c = blank) ∧ ∃ c ∈ t, c ≠ blank, .mandatory)] m

/-- TAB, BACKTAB, HOME and NEWLINE go to the destinations of R61 and R62 in the tab ring, the input fields of the
current page by rising start (section 3.6), guarded by the exit check of R59. The first one's start, or 0, is where
SHOW without an initial field and a page switch place the cursor (R36, R43). What the event hands to the line unit,
and when the engine chooses, rests on logs 7 and 8. -/
def Obligations.RingKeysMove : Prop :=
  (∀ (x : FormInstance) (p : Nat),
    x.ring = x.inputsOn x.page ∧ (x.inputsOn p).Pairwise (fun f g => f.start ≤ g.start) ∧
      (x.inputsOn p).Perm (x.fields.filter fun f => decide (f.defn.page = p ∧ f.kind = .input))) ∧
  (firstStart [] = 0 ∧ ∀ (f : FieldRec) (fs : List FieldRec), firstStart (f :: fs) = f.start) ∧
  ∀ (i : StationId) (s : State) (x : FormInstance) (q : List Item),
    let moves : Instr → Nat → Prop := fun c dest =>
      ∃ t, exec c s = .next t ∧ s.EventsQuiet t ∧
        s.Made t i { s.station i with
          queue := q, form := some (x.guardedTo dest), keyboard := x.guardedKeyboard dest } false
          (x.guardedTones dest)
    (s.Takes i x (.move .tab) q →
      (x.ring = [] → moves (.tab i) 0) ∧
      ∀ a f b, x.ring = a ++ f :: b →
        ((∀ g ∈ a, g.start ≤ x.cursor) → x.cursor < f.start → moves (.tab i) f.start) ∧
        (a = [] → (∀ g ∈ x.ring, g.start ≤ x.cursor) → moves (.tab i) f.start)) ∧
    (s.Takes i x (.move .backtab) q →
      (∀ f, x.inputAtCursor = some f → f.start < x.cursor → moves (.backtab i) f.start) ∧
      ((∀ f, x.inputAtCursor = some f → x.cursor ≤ f.start) →
        (x.ring = [] → moves (.backtab i) 0) ∧
        ∀ a f b, x.ring = a ++ f :: b →
          (f.start < x.cursor → (∀ g ∈ b, x.cursor ≤ g.start) → moves (.backtab i) f.start) ∧
          (b = [] → (∀ g ∈ x.ring, x.cursor ≤ g.start) → moves (.backtab i) f.start))) ∧
    (s.Takes i x (.move .home) q →
      (x.ring = [] → moves (.home i) 0) ∧ ∀ f b, x.ring = f :: b → moves (.home i) f.start) ∧
    (s.Takes i x (.move .newline) q →
      (x.ring = [] → x.cursor < 1840 →
        moves (.newline i) (if x.cursor / 80 + 1 = 23 then 0 else (x.cursor / 80 + 1) * 80)) ∧
      ∀ a f b, x.ring = a ++ f :: b →
        ((∀ g ∈ a, g.defn.row ≤ x.cursor / 80 + 1) → x.cursor / 80 + 1 < f.defn.row →
          moves (.newline i) f.start) ∧
        (a = [] → (∀ g ∈ x.ring, g.defn.row ≤ x.cursor / 80 + 1) → moves (.newline i) f.start))

/-- PAGE-NEXT and PAGE-PRIOR: without a target a short tone and nothing else, the tone pending or in flight
afterwards when the line is UP and the tone setting on; a failing exit check marks and inhibits, with a long tone;
else the page is switched, a repaint of the whole screen asked, settling while the line is UP (R42 to R44, R52, R53,
R59, R68, R168). What the event hands to the line unit, and when the engine chooses, rests on logs 7 and 8. -/
def Obligations.PageKeysSwitch : Prop :=
  ∀ (i : StationId) (s : State) (x : FormInstance) (q : List Item),
    let turns : Instr → Option Nat → Prop := fun c target =>
      ∃ t, exec c s = .next t ∧ s.EventsQuiet t ∧
        (target = none →
          s.Made t i { s.station i with queue := q } false [.short] ∧
          ((s.station i).line.up = true → (s.station i).settings.tone = true →
            (t.station i).line.tone.isSome = true ∨ ∃ tone, (t.station i).line.inFlight = some (.tone tone))) ∧
        ∀ p, target = some p →
          (∀ n m, x.departure (fun _ => false) = some (n, m) →
            s.Made t i { s.station i with
              queue := q, form := some (x.mark n m), keyboard := .inhibited (markReason m) } false [.long]) ∧
          (x.departure (fun _ => false) = none →
            s.Made t i { s.station i with
              queue := q
              form := some { x with
                page := p
                visited := x.visited ||| BitVec.twoPow 4 (p - 1)
                cursor := firstStart (x.inputsOn p)
                settling := (s.station i).line.up } } true [])
    (s.Takes i x (.move .pageNext) q →
      turns (.pageNext i)
        (if x.page < x.defn.pages then some (x.page + 1) else if x.defn.cycle = true then some 1 else none)) ∧
    (s.Takes i x (.move .pagePrior) q →
      turns (.pagePrior i)
        (if 1 < x.page then some (x.page - 1) else if x.defn.cycle = true then some x.defn.pages else none))

/-- RESET frees a FREE, INHIBITED or TIMED-OUT keyboard and turns insert mode off (R50, R51). What the event hands
to the line unit, and when the engine chooses, rests on logs 7 and 8. -/
def Obligations.ResetFreesTheKeyboard : Prop :=
  ∀ (i : StationId) (s : State) (x : FormInstance) (q : List Item),
    (s.station i).state = .active → (s.station i).form = some x → (s.station i).queue = .reset :: q →
    x.settling = false →
    ((s.station i).keyboard = .free ∨ (∃ r, (s.station i).keyboard = .inhibited r) ∨
      (s.station i).keyboard = .timedOut) →
    ∃ t, exec (.reset i) s = .next t ∧ s.EventsQuiet t ∧
      s.Made t i { s.station i with
        queue := q, keyboard := .free, form := some { x with insert := false } }

/-- Every item but RESET, taken in INHIBITED or TIMED-OUT, leaves the queue and changes nothing else; a short tone
is asked, which is pending or in flight afterwards when the line is UP and the tone setting on (R50, R53, R168).
What the event hands to the line unit, and when the engine chooses, rests on logs 7 and 8. -/
def Obligations.ItemsAreDiscardedOutsideFree : Prop :=
  ∀ (i : StationId) (s : State) (x : FormInstance) (it : Item) (q : List Item),
    (s.station i).state = .active → (s.station i).form = some x → (s.station i).queue = it :: q →
    x.settling = false → ((∃ r, (s.station i).keyboard = .inhibited r) ∨ (s.station i).keyboard = .timedOut) →
    it ≠ .reset → (s.station i).Pictured →
    ∃ t, exec (takeRow i it) s = .next t ∧ s.EventsQuiet t ∧
      s.Made t i { s.station i with queue := q } false [.short] ∧ (t.station i).image = (s.station i).image ∧
      ((s.station i).line.up = true → (s.station i).settings.tone = true →
        (t.station i).line.tone.isSome = true ∨ ∃ tone, (t.station i).line.inFlight = some (.tone tone))

/-! ## Sending (chapter 7) -/

/-- A full send (ENTER, or F1 to F12 outside the short keys) with an empty slot: when no input field fails, the
entry of the whole form enters the slot, the keyboard is WAITING and the timer starts; else every failing field is
marked, the keyboard takes the first failure's reason with a long tone and the cursor goes to it, by a page switch
when its page is not shown. An input field of all blanks fails when its class says mandatory entry; another by the
first that fails of the class check, the limits and the fill check. The entry's field lists stand in the order of
page and start: the touched fields without trailing blanks, and the computed fields that are reported, without
leading blanks (R74, R78, R80, R81, R84, R116, R119 to R123). What the event hands to the line unit, and when the
engine chooses, rests on logs 7 and 8. -/
def Obligations.FullSendsJudgeAndCompose : Prop :=
  (∀ (i : StationId) (s : State) (x : FormInstance) (k : SendKey) (q : List Item),
    (k = .enter ∨ ∃ n, k = .function n ∧ x.defn.shortKeys.getLsbD n.val = false) →
    s.Takes i x (.intent k) q → (s.station i).slot = none →
    ∃ t, exec (takeRow i (.intent k)) s = .next t ∧
      (x.failing = [] →
        s.EventsRaised t i .entryReady ∧
        s.Made t i { s.station i with
          queue := q
          form := some { x with insert := false }
          keyboard := .waiting
          slot := some (composeEntry i (.key k) true { x with insert := false })
          timer := if (s.station i).settings.timeout = 0 then (s.station i).timer
            else some (s.station i).settings.timeout }) ∧
      ∀ f m rest, x.failing = (f, m) :: rest →
        s.EventsQuiet t ∧
        s.Made t i
          { s.station i with
            queue := q
            keyboard := .inhibited (markReason m)
            form := some
              (if f.defn.page = x.page then { x.markFailing with insert := false, cursor := f.start }
                else { x.markFailing with
                  insert := false
                  page := f.defn.page
                  visited := x.visited ||| BitVec.twoPow 4 (f.defn.page - 1)
                  cursor := f.start
                  settling := (s.station i).line.up }) }
          (decide (f.defn.page ≠ x.page)) [.long]) ∧
  (∀ x : FormInstance,
    let fails : FieldRec → Mark → Prop := fun f m => f.kind = .input ∧ sendMark (x.classOf f) f.content = some m
    let before : FieldRec → FieldRec → Prop := fun f g =>
      f.defn.page < g.defn.page ∨ (f.defn.page = g.defn.page ∧ f.start ≤ g.start)
    (x.failing = [] ↔ ∀ f ∈ x.fields, ∀ m, ¬fails f m) ∧
    (∀ f m rest, x.failing = (f, m) :: rest →
      f ∈ x.fields ∧ fails f m ∧ ∀ g ∈ x.fields, ∀ m', fails g m' → before f g) ∧
    x.markFailing =
      { x with
        fields := x.fields.map fun f =>
          if f.kind = .input then
            { f with mark := (sendMark (x.classOf f) f.content).orElse fun _ => f.mark }
          else f } ∧
    x.byPlace.Perm x.fields ∧ x.byPlace.Pairwise before ∧
    ∀ (i : StationId) (intent : Intent), composeEntry i intent true x =
      ⟨i, intent, x.page, x.cursor / 80 + 1, x.cursor % 80 + 1, x.visited, x.generation,
        (x.byPlace.filter fun f => f.touched).map fun f => (f.defn.number, trimRight f.content),
        (x.byPlace.filter fun f => f.defn.kind == .fixed &&
            x.defn.rules.any fun r => r.target == f.defn.number && r.report).filterMap fun f =>
          f.result.map fun r => ⟨f.defn.number, r, f.content.dropWhile fun c => c == blank⟩⟩) ∧
  (∀ t : List Byte, (∃ n, t = trimRight t ++ List.replicate n blank) ∧ (trimRight t).getLast? ≠ some blank) ∧
  ∀ t : List Byte, sendMark none t = none ∧
    ∀ d : ClassDef,
      ((∀ c ∈ t, c = blank) → sendMark (some d) t = if d.mandatoryEntry = true then some .mandatory else none) ∧
      ((∃ c ∈ t, c ≠ blank) → ∀ m, sendMark (some d) t = some m ↔
        let reads : Int → Prop := fun v =>
          (d.kind = .digits ∧ numericReading 0 false t = .value v) ∨
            (d.kind = .decimal ∧ numericReading d.places d.signed t = .value v)
        FirstHolds
          [(d.kind = .alpha ∧ ∃ c ∈ t, isLetter c = false ∧ c ≠ blank, .char),
            (d.kind = .digits ∧ numericReading 0 false t = .format, .format),
            (d.kind = .decimal ∧ numericReading d.places d.signed t = .format, .format),
            (∃ v low, reads v ∧ d.low = some low ∧ v < low, .rangeLow),
            (∃ v high, reads v ∧ d.high = some high ∧ high < v, .rangeHigh),
            (d.mandatoryFill = true ∧ ∃ c ∈ t, c = blank, .mandatory)] m)

/-- A short send (CANCEL, or a short key of the form) and a CLEAR, with an empty slot, compose an entry with empty
field lists. CLEAR first restores the form: the input fields to their default texts, untouched, every mark cleared,
the current page 1, page 1 alone visited, the cursor as HOME, and nothing of the copy changed (R116, R124, R125;
that CLEAR clears the marks is the model's choice where the spec's rules conflict, log 23). What the event hands to
the line unit, and when the engine chooses, rests on logs 7 and 8. -/
def Obligations.ShortAndClearingSends : Prop :=
  (∀ (i : StationId) (s : State) (x : FormInstance) (k : SendKey) (q : List Item),
    (k = .cancel ∨ k = .clear ∨ ∃ n, k = .function n ∧ x.defn.shortKeys.getLsbD n.val = true) →
    s.Takes i x (.intent k) q → (s.station i).slot = none →
    let y : FormInstance :=
      if k = .clear then ({ x with insert := false } : FormInstance).restore else { x with insert := false }
    ∃ t, exec (takeRow i (.intent k)) s = .next t ∧ s.EventsRaised t i .entryReady ∧
      s.Made t i { s.station i with
        queue := q
        form := some y
        keyboard := .waiting
        slot := some ⟨i, .key k, y.page, y.cursor / 80 + 1, y.cursor % 80 + 1, y.visited, y.generation, [], []⟩
        timer := if (s.station i).settings.timeout = 0 then (s.station i).timer
          else some (s.station i).settings.timeout }) ∧
  ∀ x y : FormInstance, x.restore = y →
    y.page = 1 ∧ y.visited = 0b0001#4 ∧ y.cursor = firstStart (y.inputsOn 1) ∧ y.number = x.number ∧
      y.generation = x.generation ∧ y.defn = x.defn ∧ y.order = x.order ∧ y.classes = x.classes ∧
      y.settling = x.settling ∧ y.insert = x.insert ∧
      y.fields.length = x.fields.length ∧
      ∀ (n : Nat) (f g : FieldRec), x.fields[n]? = some f → y.fields[n]? = some g →
        g.defn = f.defn ∧ g.override = f.override ∧ g.mark = none ∧
          g.touched = (if f.kind = .input then false else f.touched) ∧
          ((∀ r ∈ x.defn.rules, r.target ≠ f.defn.number) →
            g.content = if f.kind = .input then padCut f.defn.length f.defn.default else f.content)

/-- Every send with an occupied slot is refused: insert mode off, the keyboard INHIBITED PEND with a long tone,
ENTRY-OVERRUN raised, the slot and the form kept (R52, R116, R118). What the event hands to the line unit, and when
the engine chooses, rests on logs 7 and 8. -/
def Obligations.SendsToAnOccupiedSlotAreRefused : Prop :=
  ∀ (i : StationId) (s : State) (x : FormInstance) (k : SendKey) (q : List Item),
    s.Takes i x (.intent k) q → (s.station i).slot.isSome = true →
    ∃ t, exec (takeRow i (.intent k)) s = .next t ∧ s.EventsRaised t i .entryOverrun ∧
      s.Made t i { s.station i with
        queue := q, keyboard := .inhibited .pend, form := some { x with insert := false } } false [.long]

/-! ## Scans (chapter 6) -/

/-- SCAN taken in FREE. The first route of the table that passes the four tests of R107 is taken; its target is the
input field under the cursor, or the field it names when that is an input field, and its text is the scan without
the characters to strip. Not routed: INHIBITED ROUTE under REJECT with a long tone; under WEDGE its characters
entered at the cursor one after another, each as a CHAR enters it, until one leaves the keyboard INHIBITED. Routed:
a failing departure marks and inhibits, else the stripped text fills the target on its page, touched and unmarked,
and a guarded TAB is taken from its start (R52, R107 to R113). What the event hands to the line unit, and when the
engine chooses, rests on logs 7 and 8. -/
def Obligations.ScansAreRouted : Prop :=
  (∀ (i : StationId) (s : State) (x : FormInstance) (text : List Byte) (q : List Item),
    s.Takes i x (.scan text) q →
    ∃ t, exec (.scanItem i) s = .next t ∧ s.EventsQuiet t ∧
      (x.routed s.library.routes text = none → (s.station i).settings.fallback = .reject →
        s.Made t i { s.station i with queue := q, keyboard := .inhibited .route } false [.long]) ∧
      (x.routed s.library.routes text = none → (s.station i).settings.fallback = .wedge →
        let entered := (Act.start { s.station i with queue := q }).wedge text
        s.Made t i entered.station entered.repaint entered.tones) ∧
      ∀ f stripped, x.routed s.library.routes text = some (f, stripped) →
        (∀ n m, x.departure (fun g => g.defn.number == f.defn.number) = some (n, m) →
          s.Made t i { s.station i with
            queue := q, form := some (x.mark n m), keyboard := .inhibited (markReason m) } false [.long]) ∧
        (x.departure (fun g => g.defn.number == f.defn.number) = none →
          let turned : FormInstance :=
            if f.defn.page = x.page then x
            else { x with
              page := f.defn.page
              visited := x.visited ||| BitVec.twoPow 4 (f.defn.page - 1)
              settling := (s.station i).line.up }
          let z : FormInstance :=
            { (turned.modField f.defn.number fun g =>
                { g with content := padCut f.defn.length stripped, touched := true, mark := none }).recompute
                  [f.defn.number] with cursor := f.start }
          s.Made t i
            { s.station i with
              queue := q
              form := some (z.guardedTo (z.tabFrom f.start))
              keyboard := z.guardedKeyboard (z.tabFrom f.start) }
            (decide (f.defn.page ≠ x.page)) (z.guardedTones (z.tabFrom f.start)))) ∧
  (∀ (routes : Table RouteDef) (x : FormInstance) (text : List Byte),
    let passes : RouteDef → Prop := fun r =>
      (∀ n, r.form = some n → n = x.number) ∧ (r.length = 0 ∨ r.length = text.length) ∧
        r.pattern.length ≤ text.length ∧
        ∀ n c, r.pattern[n]? = some c → r.mask.getLsbD n = true → text[n]? = some c
    ((∀ e ∈ routes, ¬passes e.2) → x.routed routes text = none) ∧
    ∀ a k r b, routes = a ++ (k, r) :: b → (∀ e ∈ a, ¬passes e.2) → passes r →
      (r.target = 0 → x.routed routes text = x.inputAtCursor.map fun f => (f, text.drop r.strip)) ∧
      (r.target ≠ 0 → (∀ f, x.field? r.target = some f → f.kind = .fixed) → x.routed routes text = none) ∧
      ∀ f, r.target ≠ 0 → x.field? r.target = some f → f.kind = .input →
        x.routed routes text = some (f, text.drop r.strip)) ∧
  (∀ (a : Act) (c : Byte) (cs : List Byte), a.wedge [] = a ∧
    (a.station.keyboard ≠ .free → a.wedge (c :: cs) = a) ∧
    ∀ x, a.station.keyboard = .free → a.station.form = some x → a.wedge (c :: cs) = (a.enterChar x c).wedge cs) ∧
  ∀ (i : StationId) (s : State) (x : FormInstance) (c : Byte) (q : List Item), s.Takes i x (.char c) q →
    let entered := (Act.start { s.station i with queue := q }).enterChar x c
    ∃ t, exec (.char i) s = .next t ∧ s.Made t i entered.station entered.repaint entered.tones

/-! ## Values (chapters 4 and 5) -/

/-- What a rule gives. An operand: an INPUT source by its numeric reading, a FORMAT reading being undefined; a
computed source by its result. An undefined operand makes the result UNDEFINED, else an overflowed one OVERFLOW; a
PRODUCT or PERCENT with a blank operand and a SUM or DIFFERENCE of blanks alone are BLANK. PRODUCT multiplies at the
places of both together, PERCENT at two more; SUM and DIFFERENCE bring every operand to the largest places, a blank
one counting as 0. The rescale: exact up to the result's places, and below them the nearest, half away from zero, on
the value's own side of zero. A negative value of an unsigned rule is UNDEFINED; one whose display string is too
long OVERFLOW. BLANK shows blanks, OVERFLOW "*" throughout, UNDEFINED "?" at the right (R89 to R97). -/
def Obligations.RescaleRoundsHalfAwayFromZero : Prop :=
  (∀ (v : Int) (s pr : Nat),
    (s = pr → rescale v s pr = v) ∧ (s < pr → rescale v s pr = v * 10 ^ (pr - s)) ∧
    (pr < s →
      2 * (rescale v s pr * 10 ^ (s - pr) - v).natAbs ≤ 10 ^ (s - pr) ∧
        (2 * (rescale v s pr * 10 ^ (s - pr) - v).natAbs = 10 ^ (s - pr) →
          v.natAbs < (rescale v s pr * 10 ^ (s - pr)).natAbs) ∧
        (v < 0 → rescale v s pr ≤ 0) ∧ (0 ≤ v → 0 ≤ rescale v s pr))) ∧
  (∀ (x : FormInstance) (n : Nat) (f : FieldRec), x.field? n = some f →
    (∀ c places signed, f.defn.kind = .input → x.classOf f = some c →
      ((c.kind = .digits ∧ places = 0 ∧ signed = false) ∨
        (c.kind = .decimal ∧ places = c.places ∧ signed = c.signed)) →
      x.operand n =
        match numericReading places signed f.content with
        | .blank => .blank
        | .format => .undefined
        | .value v => .value v places) ∧
    ∀ r a b, f.defn.kind = .fixed → x.defn.rules = a ++ r :: b → r.target = n → (∀ q ∈ a, q.target ≠ n) →
      (∀ v, f.result = some (.value v) → x.operand n = .value v r.places) ∧
      (f.result = some .blank → x.operand n = .blank) ∧ (f.result = some .overflow → x.operand n = .overflow) ∧
      (f.result = some .undefined → x.operand n = .undefined)) ∧
  (∀ (op : RuleOp) (ops : List Operand),
    (Operand.undefined ∈ ops → rawResult op ops = .decided .undefined) ∧
    (Operand.undefined ∉ ops → Operand.overflow ∈ ops → rawResult op ops = .decided .overflow) ∧
    (Operand.undefined ∉ ops → Operand.overflow ∉ ops →
      (Operand.blank ∈ ops → (op = .product ∨ op = .percent) → rawResult op ops = .decided .blank) ∧
      ((∀ o ∈ ops, o = .blank) → (op = .sum ∨ op = .difference) → rawResult op ops = .decided .blank) ∧
      ∀ places,
        let scaled : Operand → Int := fun o =>
          match o with
          | .value n q => n * 10 ^ (places - q)
          | .blank | .undefined | .overflow => 0
        (∃ n, Operand.value n places ∈ ops) → (∀ n q, Operand.value n q ∈ ops → q ≤ places) →
        (op = .sum → rawResult op ops = .number ((ops.map scaled).sum) places) ∧
        ∀ a b, op = .difference → ops = [a, b] → rawResult op ops = .number (scaled a - scaled b) places)) ∧
  (∀ (m n : Int) (p q : Nat),
    rawResult .product [.value m p, .value n q] = .number (m * n) (p + q) ∧
    rawResult .percent [.value m p, .value n q] = .number (m * n) (p + q + 2)) ∧
  ∀ (r : Rule) (ops : List Operand) (len : Nat), 1 ≤ len →
    let undefinedText := List.replicate (len - 1) blank ++ [0x3F#8]
    (rawResult r.op ops = .decided .blank → ruleResult r ops len = (.blank, List.replicate len blank)) ∧
    (rawResult r.op ops = .decided .overflow → ruleResult r ops len = (.overflow, List.replicate len 0x2A#8)) ∧
    (rawResult r.op ops = .decided .undefined → ruleResult r ops len = (.undefined, undefinedText)) ∧
    ∀ v places, rawResult r.op ops = .number v places →
      let c := rescale v places r.places
      let shown := displayString c r.places
      ruleResult r ops len =
        if c < 0 ∧ r.signed = false then (.undefined, undefinedText)
        else if shown.length ≤ len then (.value c, List.replicate (len - shown.length) blank ++ shown)
        else (.overflow, List.replicate len 0x2A#8)

/-- What a computed field displays reads back as its value. The display string is a "-" for a negative value, the
whole part in digits without leading zeros, and, for a rule with places, a "." and that many digits. A content reads
as blank when it is all blanks, and as a value exactly when, blanks around it set aside, it is an optional sign of a
signed class, then digits with at most one ".", at least one digit in all and no more of them after the "." than the
class has places; its value is those digits with the fraction padded to the places (R75, R76, R96). -/
def Obligations.DisplaysReadBack : Prop :=
  (∀ (v : Int) (pr len : Nat) (t : List Byte), pr ≤ 4 →
    displayValue v pr len = (.value v, t) → t.length = len ∧ numericReading pr true t = .value v) ∧
  (∀ (v : Int) (pr : Nat),
    ∃ whole fraction : List Byte,
      displayString v pr =
        (if v < 0 then [0x2D#8] else []) ++ whole ++ (if pr = 0 then [] else 0x2E#8 :: fraction) ∧
      whole ≠ [] ∧ (∀ c ∈ whole ++ fraction, 0x30 ≤ c.toNat ∧ c.toNat ≤ 0x39) ∧
      (whole.head? = some 0x30#8 → whole = [0x30#8]) ∧ fraction.length = pr) ∧
  ∀ (places : Nat) (signed : Bool) (t : List Byte),
    (numericReading places signed t = .blank ↔ ∀ c ∈ t, c = blank) ∧
    ∀ v : Int, numericReading places signed t = .value v ↔
      ∃ (before after : Nat) (negative dotted : Bool) (whole fraction : List Byte),
        t = List.replicate before blank ++ ((if negative = true then [0x2D#8] else []) ++ whole ++
          (if dotted = true then 0x2E#8 :: fraction else [])) ++ List.replicate after blank ∧
        (negative = true → signed = true) ∧ (dotted = true → 1 ≤ places) ∧ (dotted = false → fraction = []) ∧
        (∀ c ∈ whole ++ fraction, 0x30 ≤ c.toNat ∧ c.toNat ≤ 0x39) ∧ whole ++ fraction ≠ [] ∧
        fraction.length ≤ places ∧
        v = (if negative = true then -1 else 1) *
          ((whole ++ fraction).foldl (fun n d => 10 * n + ((d.toNat : Int) - 0x30)) 0 *
            10 ^ (places - fraction.length))

end
end

