-- ==== Sys2Proof/Laws/State.lean ====
section
/-! SUPPORT. One lemma per field per update, so that no later proof unfolds a record update. -/

namespace Sys2Proof.Machine

/-! ## The part -/

@[simp] theorem State.setStation_library (s : State) (i : StationId) (st : Station) :
    (s.setStation i st).library = s.library := rfl
@[simp] theorem State.setStation_host (s : State) (i : StationId) (st : Station) :
    (s.setStation i st).host = s.host := rfl
@[simp] theorem State.setStation_events (s : State) (i : StationId) (st : Station) :
    (s.setStation i st).events = s.events := rfl
@[simp] theorem State.setStation_pending (s : State) (i : StationId) (st : Station) :
    (s.setStation i st).pending = s.pending := rfl

@[simp] theorem State.raise_library (s : State) (i : StationId) (ks : List StationEvent) :
    (s.raise i ks).library = s.library := rfl
@[simp] theorem State.raise_host (s : State) (i : StationId) (ks : List StationEvent) :
    (s.raise i ks).host = s.host := rfl
@[simp] theorem State.raise_pending (s : State) (i : StationId) (ks : List StationEvent) :
    (s.raise i ks).pending = s.pending := rfl
@[simp] theorem State.raise_stations (s : State) (i : StationId) (ks : List StationEvent) :
    (s.raise i ks).stations = s.stations := rfl
@[simp] theorem State.raise_station (s : State) (i j : StationId) (ks : List StationEvent) :
    (s.raise i ks).station j = s.station j := rfl
@[simp] theorem State.raise_nil (s : State) (i : StationId) : s.raise i [] = s := rfl

@[simp] theorem State.raisePart_library (s : State) (k : PartEvent) : (s.raisePart k).library = s.library := rfl
@[simp] theorem State.raisePart_host (s : State) (k : PartEvent) : (s.raisePart k).host = s.host := rfl
@[simp] theorem State.raisePart_pending (s : State) (k : PartEvent) : (s.raisePart k).pending = s.pending := rfl
@[simp] theorem State.raisePart_stations (s : State) (k : PartEvent) :
    (s.raisePart k).stations = s.stations := rfl
@[simp] theorem State.raisePart_station (s : State) (j : StationId) (k : PartEvent) :
    (s.raisePart k).station j = s.station j := rfl

@[simp] theorem State.modHost_library (s : State) (g : HostLine → HostLine) :
    (s.modHost g).library = s.library := rfl
@[simp] theorem State.modHost_events (s : State) (g : HostLine → HostLine) :
    (s.modHost g).events = s.events := rfl
@[simp] theorem State.modHost_pending (s : State) (g : HostLine → HostLine) :
    (s.modHost g).pending = s.pending := rfl
@[simp] theorem State.modHost_stations (s : State) (g : HostLine → HostLine) :
    (s.modHost g).stations = s.stations := rfl
@[simp] theorem State.modHost_host (s : State) (g : HostLine → HostLine) : (s.modHost g).host = g s.host := rfl
@[simp] theorem State.modHost_station (s : State) (g : HostLine → HostLine) (j : StationId) :
    (s.modHost g).station j = s.station j := rfl

@[simp] theorem State.respond_library (s : State) (tag : Byte) (r : Response) :
    (s.respond tag r).library = s.library := rfl
@[simp] theorem State.respond_events (s : State) (tag : Byte) (r : Response) :
    (s.respond tag r).events = s.events := rfl
@[simp] theorem State.respond_pending (s : State) (tag : Byte) (r : Response) :
    (s.respond tag r).pending = s.pending := rfl
@[simp] theorem State.respond_stations (s : State) (tag : Byte) (r : Response) :
    (s.respond tag r).stations = s.stations := rfl
@[simp] theorem State.respond_station (s : State) (tag : Byte) (r : Response) (j : StationId) :
    (s.respond tag r).station j = s.station j := rfl
@[simp] theorem State.respond_host (s : State) (tag : Byte) (r : Response) :
    (s.respond tag r).host = s.host.send [answerFrame tag r] := rfl

@[simp] theorem State.event_library (s : State) (i : StationId) (f : Act → Act) :
    (s.event i f).library = s.library := rfl
@[simp] theorem State.event_host (s : State) (i : StationId) (f : Act → Act) : (s.event i f).host = s.host := rfl
@[simp] theorem State.event_pending (s : State) (i : StationId) (f : Act → Act) :
    (s.event i f).pending = s.pending := rfl
@[simp] theorem State.modLine_library (s : State) (i : StationId) (f : LineUnit → LineUnit) :
    (s.modLine i f).library = s.library := rfl
@[simp] theorem State.modLine_host (s : State) (i : StationId) (f : LineUnit → LineUnit) :
    (s.modLine i f).host = s.host := rfl
@[simp] theorem State.modLine_events (s : State) (i : StationId) (f : LineUnit → LineUnit) :
    (s.modLine i f).events = s.events := rfl
@[simp] theorem State.modLine_pending (s : State) (i : StationId) (f : LineUnit → LineUnit) :
    (s.modLine i f).pending = s.pending := rfl

/-- The end of a command changes nothing but the SRQ output (R189). -/
theorem State.done_eq (s : State) : s.done = .next { s with events := s.events.drive } := rfl

/-! ## The event unit -/

@[simp] theorem EventUnit.drive_partFlags (e : EventUnit) : e.drive.partFlags = e.partFlags := rfl
@[simp] theorem EventUnit.drive_stationFlags (e : EventUnit) : e.drive.stationFlags = e.stationFlags := rfl
@[simp] theorem EventUnit.drive_enables (e : EventUnit) : e.drive.enables = e.enables := rfl
@[simp] theorem EventUnit.drive_holdOff (e : EventUnit) : e.drive.holdOff = e.holdOff := rfl
@[simp] theorem EventUnit.drive_srq (e : EventUnit) : e.drive.srq = e.srqLevel := rfl
@[simp] theorem EventUnit.drive_srqLevel (e : EventUnit) : e.drive.srqLevel = e.srqLevel := rfl
@[simp] theorem EventUnit.drive_drive (e : EventUnit) : e.drive.drive = e.drive := rfl
@[simp] theorem EventUnit.raiseStation_partFlags (e : EventUnit) (i : StationId) (k : StationEvent) :
    (e.raiseStation i k).partFlags = e.partFlags := rfl
@[simp] theorem EventUnit.raiseStation_enables (e : EventUnit) (i : StationId) (k : StationEvent) :
    (e.raiseStation i k).enables = e.enables := rfl
@[simp] theorem EventUnit.raiseStation_holdOff (e : EventUnit) (i : StationId) (k : StationEvent) :
    (e.raiseStation i k).holdOff = e.holdOff := rfl
@[simp] theorem EventUnit.raiseStation_srq (e : EventUnit) (i : StationId) (k : StationEvent) :
    (e.raiseStation i k).srq = e.srq := rfl
@[simp] theorem EventUnit.raisePart_stationFlags (e : EventUnit) (k : PartEvent) :
    (e.raisePart k).stationFlags = e.stationFlags := rfl
@[simp] theorem EventUnit.raisePart_enables (e : EventUnit) (k : PartEvent) :
    (e.raisePart k).enables = e.enables := rfl
@[simp] theorem EventUnit.raisePart_holdOff (e : EventUnit) (k : PartEvent) :
    (e.raisePart k).holdOff = e.holdOff := rfl
@[simp] theorem EventUnit.raisePart_srq (e : EventUnit) (k : PartEvent) : (e.raisePart k).srq = e.srq := rfl
@[simp] theorem EventUnit.clearStation_partFlags (e : EventUnit) (i : StationId) (m : BitVec 8) :
    (e.clearStation i m).partFlags = e.partFlags := rfl
@[simp] theorem EventUnit.clearStation_enables (e : EventUnit) (i : StationId) (m : BitVec 8) :
    (e.clearStation i m).enables = e.enables := rfl
@[simp] theorem EventUnit.clearStation_holdOff (e : EventUnit) (i : StationId) (m : BitVec 8) :
    (e.clearStation i m).holdOff = e.holdOff := rfl
@[simp] theorem EventUnit.clearStation_srq (e : EventUnit) (i : StationId) (m : BitVec 8) :
    (e.clearStation i m).srq = e.srq := rfl

/-! ## Reading a station after writing one -/

@[simp] theorem State.station_setStation_self (s : State) (i : StationId) (st : Station) :
    (s.setStation i st).station i = st := by
  simp [State.station, State.setStation]

theorem State.station_setStation_ne (s : State) {i j : StationId} (st : Station) (h : j ≠ i) :
    (s.setStation i st).station j = s.station j := by
  have h' : i.val ≠ j.val := fun e => h (Fin.ext e.symm)
  simp [State.station, State.setStation, h']

/-- Two parts with the same stations hold the same station vector. -/
theorem State.stations_ext {s t : State} (h : ∀ i, t.station i = s.station i) : t.stations = s.stations := by
  apply Vector.ext
  intro n hn
  exact h ⟨n, hn⟩

/-! ## An event in progress -/

@[simp] theorem Act.putForm_station (a : Act) (x : FormInstance) :
    (a.putForm x).station = { a.station with form := some x } := rfl
@[simp] theorem Act.putForm_tones (a : Act) (x : FormInstance) : (a.putForm x).tones = a.tones := rfl
@[simp] theorem Act.putForm_repaint (a : Act) (x : FormInstance) : (a.putForm x).repaint = a.repaint := rfl
@[simp] theorem Act.putForm_raised (a : Act) (x : FormInstance) : (a.putForm x).raised = a.raised := rfl
@[simp] theorem Act.setKeyboard_station (a : Act) (k : Keyboard) :
    (a.setKeyboard k).station = { a.station with keyboard := k } := rfl
@[simp] theorem Act.setKeyboard_tones (a : Act) (k : Keyboard) : (a.setKeyboard k).tones = a.tones := rfl
@[simp] theorem Act.setKeyboard_repaint (a : Act) (k : Keyboard) : (a.setKeyboard k).repaint = a.repaint := rfl
@[simp] theorem Act.setKeyboard_raised (a : Act) (k : Keyboard) : (a.setKeyboard k).raised = a.raised := rfl
@[simp] theorem Act.ask_station (a : Act) (t : Tone) : (a.ask t).station = a.station := rfl
@[simp] theorem Act.ask_tones (a : Act) (t : Tone) : (a.ask t).tones = a.tones ++ [t] := rfl
@[simp] theorem Act.ask_repaint (a : Act) (t : Tone) : (a.ask t).repaint = a.repaint := rfl
@[simp] theorem Act.ask_raised (a : Act) (t : Tone) : (a.ask t).raised = a.raised := rfl
@[simp] theorem Act.askRepaint_station (a : Act) : a.askRepaint.station = a.station := rfl
@[simp] theorem Act.askRepaint_tones (a : Act) : a.askRepaint.tones = a.tones := rfl
@[simp] theorem Act.askRepaint_repaint (a : Act) : a.askRepaint.repaint = true := rfl
@[simp] theorem Act.askRepaint_raised (a : Act) : a.askRepaint.raised = a.raised := rfl
@[simp] theorem Act.raise_station (a : Act) (k : StationEvent) : (a.raise k).station = a.station := rfl
@[simp] theorem Act.raise_tones (a : Act) (k : StationEvent) : (a.raise k).tones = a.tones := rfl
@[simp] theorem Act.raise_repaint (a : Act) (k : StationEvent) : (a.raise k).repaint = a.repaint := rfl
@[simp] theorem Act.raise_raised (a : Act) (k : StationEvent) : (a.raise k).raised = a.raised ++ [k] := rfl
@[simp] theorem Act.stopTimer_station (a : Act) : a.stopTimer.station = { a.station with timer := none } := rfl
@[simp] theorem Act.stopTimer_tones (a : Act) : a.stopTimer.tones = a.tones := rfl
@[simp] theorem Act.stopTimer_repaint (a : Act) : a.stopTimer.repaint = a.repaint := rfl
@[simp] theorem Act.stopTimer_raised (a : Act) : a.stopTimer.raised = a.raised := rfl
@[simp] theorem Act.emptyQueue_station (a : Act) : a.emptyQueue.station = { a.station with queue := [] } := rfl
@[simp] theorem Act.emptyQueue_tones (a : Act) : a.emptyQueue.tones = a.tones := rfl
@[simp] theorem Act.emptyQueue_repaint (a : Act) : a.emptyQueue.repaint = a.repaint := rfl
@[simp] theorem Act.emptyQueue_raised (a : Act) : a.emptyQueue.raised = a.raised := rfl
@[simp] theorem Act.dropHead_station (a : Act) :
    a.dropHead.station = { a.station with queue := a.station.queue.tail } := rfl
@[simp] theorem Act.dropHead_tones (a : Act) : a.dropHead.tones = a.tones := rfl
@[simp] theorem Act.dropHead_repaint (a : Act) : a.dropHead.repaint = a.repaint := rfl
@[simp] theorem Act.dropHead_raised (a : Act) : a.dropHead.raised = a.raised := rfl
@[simp] theorem Act.inhibit_station (a : Act) (r : Reason) :
    (a.inhibit r).station = { a.station with keyboard := .inhibited r } := rfl
@[simp] theorem Act.inhibit_tones (a : Act) (r : Reason) : (a.inhibit r).tones = a.tones ++ [.long] := rfl
@[simp] theorem Act.inhibit_repaint (a : Act) (r : Reason) : (a.inhibit r).repaint = a.repaint := rfl
@[simp] theorem Act.inhibit_raised (a : Act) (r : Reason) : (a.inhibit r).raised = a.raised := rfl
@[simp] theorem Act.fillSlot_station (a : Act) (e : Entry) :
    (a.fillSlot e).station = { a.station with slot := some e } := rfl
@[simp] theorem Act.fillSlot_tones (a : Act) (e : Entry) : (a.fillSlot e).tones = a.tones := rfl
@[simp] theorem Act.fillSlot_repaint (a : Act) (e : Entry) : (a.fillSlot e).repaint = a.repaint := rfl
@[simp] theorem Act.fillSlot_raised (a : Act) (e : Entry) :
    (a.fillSlot e).raised = a.raised ++ [.entryReady] := rfl
@[simp] theorem Act.setScanner_station (a : Act) (n : Nat) (sc : ScannerState) :
    (a.setScanner n sc).station = { a.station with line := { a.station.line with scanErrors := n, scanner := sc } } := rfl
@[simp] theorem Act.setScanner_tones (a : Act) (n : Nat) (sc : ScannerState) :
    (a.setScanner n sc).tones = a.tones := rfl
@[simp] theorem Act.setScanner_repaint (a : Act) (n : Nat) (sc : ScannerState) :
    (a.setScanner n sc).repaint = a.repaint := rfl
@[simp] theorem Act.setScanner_raised (a : Act) (n : Nat) (sc : ScannerState) :
    (a.setScanner n sc).raised = a.raised := rfl

@[simp] theorem Act.start_station (st : Station) : (Act.start st).station = st := rfl
@[simp] theorem Act.start_tones (st : Station) : (Act.start st).tones = [] := rfl
@[simp] theorem Act.start_repaint (st : Station) : (Act.start st).repaint = false := rfl
@[simp] theorem Act.start_raised (st : Station) : (Act.start st).raised = [] := rfl

/-! ## The end of an event: what the composer's own fields become -/

@[simp] theorem Act.finish_state (a : Act) (img : Image) : (a.finish img).state = a.station.state := rfl
@[simp] theorem Act.finish_form (a : Act) (img : Image) : (a.finish img).form = a.station.form := rfl
@[simp] theorem Act.finish_keyboard (a : Act) (img : Image) : (a.finish img).keyboard = a.station.keyboard := rfl
@[simp] theorem Act.finish_queue (a : Act) (img : Image) : (a.finish img).queue = a.station.queue := rfl
@[simp] theorem Act.finish_slot (a : Act) (img : Image) : (a.finish img).slot = a.station.slot := rfl
@[simp] theorem Act.finish_attention (a : Act) (img : Image) :
    (a.finish img).attention = a.station.attention := rfl
@[simp] theorem Act.finish_timer (a : Act) (img : Image) : (a.finish img).timer = a.station.timer := rfl
@[simp] theorem Act.finish_settings (a : Act) (img : Image) : (a.finish img).settings = a.station.settings := rfl
@[simp] theorem Act.finish_notice (a : Act) (img : Image) : (a.finish img).notice = a.station.notice := rfl
@[simp] theorem Act.finish_image (a : Act) (img : Image) : (a.finish img).image = composeImage a.station := rfl

end Sys2Proof.Machine
end

