-- ==== Sys2Proof/Laws/LineUnit.lean ====
section
/-! SUPPORT. The line unit: what its operations leave alone, and what each can do. -/

namespace Sys2Proof.Machine

/-! ## The line state, the counters and the scanner are no concern of painting -/

@[simp] theorem LineUnit.requestRepaint_up (l : LineUnit) : l.requestRepaint.up = l.up := rfl

@[simp] theorem LineUnit.enqueue_up (l : LineUnit) (s : Span) : (l.enqueue s).up = l.up := by
  unfold LineUnit.enqueue; repeat' split <;> try rfl

@[simp] theorem LineUnit.handSpan_up (l : LineUnit) (s : Span) : (l.handSpan s).up = l.up := by
  unfold LineUnit.handSpan; repeat' split <;> try simp

@[simp] theorem LineUnit.askTone_up (l : LineUnit) (t : Tone) : (l.askTone t).up = l.up := by
  unfold LineUnit.askTone; split <;> rfl

@[simp] theorem LineUnit.handSpans_up (ss : List Span) (l : LineUnit) :
    (ss.foldl LineUnit.handSpan l).up = l.up := by
  induction ss generalizing l with
  | nil => rfl
  | cons s ss ih => simp [ih]

@[simp] theorem LineUnit.askTones_up (ts : List Tone) (l : LineUnit) :
    (ts.foldl LineUnit.askTone l).up = l.up := by
  induction ts generalizing l with
  | nil => rfl
  | cons t ts ih => simp [ih]

@[simp] theorem LineUnit.startOther_up (l : LineUnit) (img : Image) (p : Nat) :
    (l.startOther img p).up = l.up := by
  unfold LineUnit.startOther; repeat' split <;> try rfl

@[simp] theorem LineUnit.startNext_up (l : LineUnit) (img : Image) (p : Nat) :
    (l.startNext img p).up = l.up := by
  unfold LineUnit.startNext; repeat' split <;> try simp

@[simp] theorem LineUnit.engine_up (l : LineUnit) (img : Image) (p : Nat) :
    (l.engine img p).up = l.up := by
  unfold LineUnit.engine; split <;> simp

@[simp] theorem Act.handed_up (a : Act) (b c : Image) : (a.handed b c).up = a.station.line.up := by
  unfold Act.handed; repeat' split <;> try simp

@[simp] theorem Act.finish_line_up (a : Act) (img : Image) :
    (a.finish img).line.up = a.station.line.up := by
  simp [Act.finish]

@[simp] theorem LineUnit.requestRepaint_silence (l : LineUnit) : l.requestRepaint.silence = l.silence := rfl

@[simp] theorem LineUnit.enqueue_silence (l : LineUnit) (s : Span) : (l.enqueue s).silence = l.silence := by
  unfold LineUnit.enqueue; repeat' split <;> try rfl

@[simp] theorem LineUnit.handSpan_silence (l : LineUnit) (s : Span) : (l.handSpan s).silence = l.silence := by
  unfold LineUnit.handSpan; repeat' split <;> try simp

@[simp] theorem LineUnit.askTone_silence (l : LineUnit) (t : Tone) : (l.askTone t).silence = l.silence := by
  unfold LineUnit.askTone; split <;> rfl

@[simp] theorem LineUnit.handSpans_silence (ss : List Span) (l : LineUnit) :
    (ss.foldl LineUnit.handSpan l).silence = l.silence := by
  induction ss generalizing l with
  | nil => rfl
  | cons s ss ih => simp [ih]

@[simp] theorem LineUnit.askTones_silence (ts : List Tone) (l : LineUnit) :
    (ts.foldl LineUnit.askTone l).silence = l.silence := by
  induction ts generalizing l with
  | nil => rfl
  | cons t ts ih => simp [ih]

@[simp] theorem LineUnit.startOther_silence (l : LineUnit) (img : Image) (p : Nat) :
    (l.startOther img p).silence = l.silence := by
  unfold LineUnit.startOther; repeat' split <;> try rfl

@[simp] theorem LineUnit.startNext_silence (l : LineUnit) (img : Image) (p : Nat) :
    (l.startNext img p).silence = l.silence := by
  unfold LineUnit.startNext; repeat' split <;> try simp

@[simp] theorem LineUnit.engine_silence (l : LineUnit) (img : Image) (p : Nat) :
    (l.engine img p).silence = l.silence := by
  unfold LineUnit.engine; split <;> simp

@[simp] theorem Act.handed_silence (a : Act) (b c : Image) : (a.handed b c).silence = a.station.line.silence := by
  unfold Act.handed; repeat' split <;> try simp

@[simp] theorem Act.finish_line_silence (a : Act) (img : Image) :
    (a.finish img).line.silence = a.station.line.silence := by
  simp [Act.finish]

@[simp] theorem LineUnit.requestRepaint_parityErrors (l : LineUnit) : l.requestRepaint.parityErrors = l.parityErrors := rfl

@[simp] theorem LineUnit.enqueue_parityErrors (l : LineUnit) (s : Span) : (l.enqueue s).parityErrors = l.parityErrors := by
  unfold LineUnit.enqueue; repeat' split <;> try rfl

@[simp] theorem LineUnit.handSpan_parityErrors (l : LineUnit) (s : Span) : (l.handSpan s).parityErrors = l.parityErrors := by
  unfold LineUnit.handSpan; repeat' split <;> try simp

@[simp] theorem LineUnit.askTone_parityErrors (l : LineUnit) (t : Tone) : (l.askTone t).parityErrors = l.parityErrors := by
  unfold LineUnit.askTone; split <;> rfl

@[simp] theorem LineUnit.handSpans_parityErrors (ss : List Span) (l : LineUnit) :
    (ss.foldl LineUnit.handSpan l).parityErrors = l.parityErrors := by
  induction ss generalizing l with
  | nil => rfl
  | cons s ss ih => simp [ih]

@[simp] theorem LineUnit.askTones_parityErrors (ts : List Tone) (l : LineUnit) :
    (ts.foldl LineUnit.askTone l).parityErrors = l.parityErrors := by
  induction ts generalizing l with
  | nil => rfl
  | cons t ts ih => simp [ih]

@[simp] theorem LineUnit.startOther_parityErrors (l : LineUnit) (img : Image) (p : Nat) :
    (l.startOther img p).parityErrors = l.parityErrors := by
  unfold LineUnit.startOther; repeat' split <;> try rfl

@[simp] theorem LineUnit.startNext_parityErrors (l : LineUnit) (img : Image) (p : Nat) :
    (l.startNext img p).parityErrors = l.parityErrors := by
  unfold LineUnit.startNext; repeat' split <;> try simp

@[simp] theorem LineUnit.engine_parityErrors (l : LineUnit) (img : Image) (p : Nat) :
    (l.engine img p).parityErrors = l.parityErrors := by
  unfold LineUnit.engine; split <;> simp

@[simp] theorem Act.handed_parityErrors (a : Act) (b c : Image) : (a.handed b c).parityErrors = a.station.line.parityErrors := by
  unfold Act.handed; repeat' split <;> try simp

@[simp] theorem Act.finish_line_parityErrors (a : Act) (img : Image) :
    (a.finish img).line.parityErrors = a.station.line.parityErrors := by
  simp [Act.finish]

@[simp] theorem LineUnit.requestRepaint_framingErrors (l : LineUnit) : l.requestRepaint.framingErrors = l.framingErrors := rfl

@[simp] theorem LineUnit.enqueue_framingErrors (l : LineUnit) (s : Span) : (l.enqueue s).framingErrors = l.framingErrors := by
  unfold LineUnit.enqueue; repeat' split <;> try rfl

@[simp] theorem LineUnit.handSpan_framingErrors (l : LineUnit) (s : Span) : (l.handSpan s).framingErrors = l.framingErrors := by
  unfold LineUnit.handSpan; repeat' split <;> try simp

@[simp] theorem LineUnit.askTone_framingErrors (l : LineUnit) (t : Tone) : (l.askTone t).framingErrors = l.framingErrors := by
  unfold LineUnit.askTone; split <;> rfl

@[simp] theorem LineUnit.handSpans_framingErrors (ss : List Span) (l : LineUnit) :
    (ss.foldl LineUnit.handSpan l).framingErrors = l.framingErrors := by
  induction ss generalizing l with
  | nil => rfl
  | cons s ss ih => simp [ih]

@[simp] theorem LineUnit.askTones_framingErrors (ts : List Tone) (l : LineUnit) :
    (ts.foldl LineUnit.askTone l).framingErrors = l.framingErrors := by
  induction ts generalizing l with
  | nil => rfl
  | cons t ts ih => simp [ih]

@[simp] theorem LineUnit.startOther_framingErrors (l : LineUnit) (img : Image) (p : Nat) :
    (l.startOther img p).framingErrors = l.framingErrors := by
  unfold LineUnit.startOther; repeat' split <;> try rfl

@[simp] theorem LineUnit.startNext_framingErrors (l : LineUnit) (img : Image) (p : Nat) :
    (l.startNext img p).framingErrors = l.framingErrors := by
  unfold LineUnit.startNext; repeat' split <;> try simp

@[simp] theorem LineUnit.engine_framingErrors (l : LineUnit) (img : Image) (p : Nat) :
    (l.engine img p).framingErrors = l.framingErrors := by
  unfold LineUnit.engine; split <;> simp

@[simp] theorem Act.handed_framingErrors (a : Act) (b c : Image) : (a.handed b c).framingErrors = a.station.line.framingErrors := by
  unfold Act.handed; repeat' split <;> try simp

@[simp] theorem Act.finish_line_framingErrors (a : Act) (img : Image) :
    (a.finish img).line.framingErrors = a.station.line.framingErrors := by
  simp [Act.finish]

@[simp] theorem LineUnit.requestRepaint_scanErrors (l : LineUnit) : l.requestRepaint.scanErrors = l.scanErrors := rfl

@[simp] theorem LineUnit.enqueue_scanErrors (l : LineUnit) (s : Span) : (l.enqueue s).scanErrors = l.scanErrors := by
  unfold LineUnit.enqueue; repeat' split <;> try rfl

@[simp] theorem LineUnit.handSpan_scanErrors (l : LineUnit) (s : Span) : (l.handSpan s).scanErrors = l.scanErrors := by
  unfold LineUnit.handSpan; repeat' split <;> try simp

@[simp] theorem LineUnit.askTone_scanErrors (l : LineUnit) (t : Tone) : (l.askTone t).scanErrors = l.scanErrors := by
  unfold LineUnit.askTone; split <;> rfl

@[simp] theorem LineUnit.handSpans_scanErrors (ss : List Span) (l : LineUnit) :
    (ss.foldl LineUnit.handSpan l).scanErrors = l.scanErrors := by
  induction ss generalizing l with
  | nil => rfl
  | cons s ss ih => simp [ih]

@[simp] theorem LineUnit.askTones_scanErrors (ts : List Tone) (l : LineUnit) :
    (ts.foldl LineUnit.askTone l).scanErrors = l.scanErrors := by
  induction ts generalizing l with
  | nil => rfl
  | cons t ts ih => simp [ih]

@[simp] theorem LineUnit.startOther_scanErrors (l : LineUnit) (img : Image) (p : Nat) :
    (l.startOther img p).scanErrors = l.scanErrors := by
  unfold LineUnit.startOther; repeat' split <;> try rfl

@[simp] theorem LineUnit.startNext_scanErrors (l : LineUnit) (img : Image) (p : Nat) :
    (l.startNext img p).scanErrors = l.scanErrors := by
  unfold LineUnit.startNext; repeat' split <;> try simp

@[simp] theorem LineUnit.engine_scanErrors (l : LineUnit) (img : Image) (p : Nat) :
    (l.engine img p).scanErrors = l.scanErrors := by
  unfold LineUnit.engine; split <;> simp

@[simp] theorem Act.handed_scanErrors (a : Act) (b c : Image) : (a.handed b c).scanErrors = a.station.line.scanErrors := by
  unfold Act.handed; repeat' split <;> try simp

@[simp] theorem Act.finish_line_scanErrors (a : Act) (img : Image) :
    (a.finish img).line.scanErrors = a.station.line.scanErrors := by
  simp [Act.finish]

@[simp] theorem LineUnit.requestRepaint_scanner (l : LineUnit) : l.requestRepaint.scanner = l.scanner := rfl

@[simp] theorem LineUnit.enqueue_scanner (l : LineUnit) (s : Span) : (l.enqueue s).scanner = l.scanner := by
  unfold LineUnit.enqueue; repeat' split <;> try rfl

@[simp] theorem LineUnit.handSpan_scanner (l : LineUnit) (s : Span) : (l.handSpan s).scanner = l.scanner := by
  unfold LineUnit.handSpan; repeat' split <;> try simp

@[simp] theorem LineUnit.askTone_scanner (l : LineUnit) (t : Tone) : (l.askTone t).scanner = l.scanner := by
  unfold LineUnit.askTone; split <;> rfl

@[simp] theorem LineUnit.handSpans_scanner (ss : List Span) (l : LineUnit) :
    (ss.foldl LineUnit.handSpan l).scanner = l.scanner := by
  induction ss generalizing l with
  | nil => rfl
  | cons s ss ih => simp [ih]

@[simp] theorem LineUnit.askTones_scanner (ts : List Tone) (l : LineUnit) :
    (ts.foldl LineUnit.askTone l).scanner = l.scanner := by
  induction ts generalizing l with
  | nil => rfl
  | cons t ts ih => simp [ih]

@[simp] theorem LineUnit.startOther_scanner (l : LineUnit) (img : Image) (p : Nat) :
    (l.startOther img p).scanner = l.scanner := by
  unfold LineUnit.startOther; repeat' split <;> try rfl

@[simp] theorem LineUnit.startNext_scanner (l : LineUnit) (img : Image) (p : Nat) :
    (l.startNext img p).scanner = l.scanner := by
  unfold LineUnit.startNext; repeat' split <;> try simp

@[simp] theorem LineUnit.engine_scanner (l : LineUnit) (img : Image) (p : Nat) :
    (l.engine img p).scanner = l.scanner := by
  unfold LineUnit.engine; split <;> simp

@[simp] theorem Act.handed_scanner (a : Act) (b c : Image) : (a.handed b c).scanner = a.station.line.scanner := by
  unfold Act.handed; repeat' split <;> try simp

@[simp] theorem Act.finish_line_scanner (a : Act) (img : Image) :
    (a.finish img).line.scanner = a.station.line.scanner := by
  simp [Act.finish]

@[simp] theorem LineUnit.requestRepaint_receiver (l : LineUnit) : l.requestRepaint.receiver = l.receiver := rfl

@[simp] theorem LineUnit.enqueue_receiver (l : LineUnit) (s : Span) : (l.enqueue s).receiver = l.receiver := by
  unfold LineUnit.enqueue; repeat' split <;> try rfl

@[simp] theorem LineUnit.handSpan_receiver (l : LineUnit) (s : Span) : (l.handSpan s).receiver = l.receiver := by
  unfold LineUnit.handSpan; repeat' split <;> try simp

@[simp] theorem LineUnit.askTone_receiver (l : LineUnit) (t : Tone) : (l.askTone t).receiver = l.receiver := by
  unfold LineUnit.askTone; split <;> rfl

@[simp] theorem LineUnit.handSpans_receiver (ss : List Span) (l : LineUnit) :
    (ss.foldl LineUnit.handSpan l).receiver = l.receiver := by
  induction ss generalizing l with
  | nil => rfl
  | cons s ss ih => simp [ih]

@[simp] theorem LineUnit.askTones_receiver (ts : List Tone) (l : LineUnit) :
    (ts.foldl LineUnit.askTone l).receiver = l.receiver := by
  induction ts generalizing l with
  | nil => rfl
  | cons t ts ih => simp [ih]

@[simp] theorem LineUnit.startOther_receiver (l : LineUnit) (img : Image) (p : Nat) :
    (l.startOther img p).receiver = l.receiver := by
  unfold LineUnit.startOther; repeat' split <;> try rfl

@[simp] theorem LineUnit.startNext_receiver (l : LineUnit) (img : Image) (p : Nat) :
    (l.startNext img p).receiver = l.receiver := by
  unfold LineUnit.startNext; repeat' split <;> try simp

@[simp] theorem LineUnit.engine_receiver (l : LineUnit) (img : Image) (p : Nat) :
    (l.engine img p).receiver = l.receiver := by
  unfold LineUnit.engine; split <;> simp

@[simp] theorem Act.handed_receiver (a : Act) (b c : Image) : (a.handed b c).receiver = a.station.line.receiver := by
  unfold Act.handed; repeat' split <;> try simp

@[simp] theorem Act.finish_line_receiver (a : Act) (img : Image) :
    (a.finish img).line.receiver = a.station.line.receiver := by
  simp [Act.finish]

end Sys2Proof.Machine
end

