-- ==== Sys2Proof/Laws/Events.lean ====
section
/-! SUPPORT. What an event at a station, an order over a station set and a taken item can do: one lemma per
shared operation of Machine/Composer.lean and Machine/Orders.lean. -/

namespace Sys2Proof.Machine

/-! ## An event at one station -/

@[simp] theorem State.event_station_self (s : State) (i : StationId) (f : Act → Act) :
    (s.event i f).station i = (f (Act.start (s.station i))).finish (s.station i).image := by
  simp [State.event]

theorem State.event_station_ne (s : State) {i j : StationId} (f : Act → Act) (h : j ≠ i) :
    (s.event i f).station j = s.station j := by
  simp [State.event, State.station_setStation_ne s _ h]

theorem State.event_events (s : State) (i : StationId) (f : Act → Act) :
    (s.event i f).events = ((f (Act.start (s.station i))).raised).foldl (fun e k => e.raiseStation i k) s.events :=
  rfl

@[simp] theorem State.raise_events (s : State) (i : StationId) (ks : List StationEvent) :
    (s.raise i ks).events = ks.foldl (fun e k => e.raiseStation i k) s.events := rfl

theorem State.event_events_quiet (s : State) (i : StationId) (f : Act → Act)
    (h : (f (Act.start (s.station i))).raised = []) : (s.event i f).events = s.events := by
  simp [State.event_events, h]

@[simp] theorem State.modLine_station_self (s : State) (i : StationId) (f : LineUnit → LineUnit) :
    (s.modLine i f).station i = { s.station i with line := f (s.station i).line } := by
  simp [State.modLine]

theorem State.modLine_station_ne (s : State) {i j : StationId} (f : LineUnit → LineUnit) (h : j ≠ i) :
    (s.modLine i f).station j = s.station j := by
  simp [State.modLine, State.station_setStation_ne s _ h]

/-- Raised events touch the flags of their own station alone. -/
theorem EventUnit.raiseStations_flags_ne (ks : List StationEvent) (e : EventUnit) {i j : StationId}
    (h : j ≠ i) :
    (ks.foldl (fun e k => e.raiseStation i k) e).stationFlags[j.val] = e.stationFlags[j.val] := by
  have h' : i.val ≠ j.val := fun e => h (Fin.ext e.symm)
  induction ks generalizing e with
  | nil => rfl
  | cons k ks ih =>
    rw [List.foldl_cons, ih]
    simp [EventUnit.raiseStation, h']

/-- Raised events touch neither the part flags, nor the enables, nor the hold-off, nor the output. -/
theorem EventUnit.raiseStations_frame (ks : List StationEvent) (e : EventUnit) (i : StationId) :
    (ks.foldl (fun e k => e.raiseStation i k) e).partFlags = e.partFlags ∧
    (ks.foldl (fun e k => e.raiseStation i k) e).enables = e.enables ∧
    (ks.foldl (fun e k => e.raiseStation i k) e).holdOff = e.holdOff ∧
    (ks.foldl (fun e k => e.raiseStation i k) e).srq = e.srq := by
  induction ks generalizing e with
  | nil => simp
  | cons k ks ih => simpa using ih (e.raiseStation i k)

/-- The event flags of another station are not touched by an event. -/
theorem State.event_flagsOf_ne (s : State) {i j : StationId} (f : Act → Act) (h : j ≠ i) :
    (s.event i f).flagsOf j = s.flagsOf j := by
  unfold State.flagsOf
  rw [State.event_events]
  exact EventUnit.raiseStations_flags_ne _ _ h

/-! ## An order at one station and over a set -/

@[simp] theorem State.order_library (s : State) (i : StationId) (f : Act → OrderResult) :
    (s.order i f).1.library = s.library := by unfold State.order; split <;> simp
@[simp] theorem State.order_host (s : State) (i : StationId) (f : Act → OrderResult) :
    (s.order i f).1.host = s.host := by unfold State.order; split <;> simp
@[simp] theorem State.order_pending (s : State) (i : StationId) (f : Act → OrderResult) :
    (s.order i f).1.pending = s.pending := by unfold State.order; split <;> simp

/-- What an order leaves a station as (R134). -/
def OrderResult.leaves (st : Station) : OrderResult → Station
  | .refused _ => st
  | .applied a _ _ _ => a.finish st.image

/-- The member of the outcome list that an order gives (R134). -/
def OrderResult.outcome : OrderResult → StationOutcome
  | .refused c => .refused c
  | .applied _ late skipped cut => .applied late skipped cut

/-- The events that an order raises at its station. -/
def OrderResult.raises : OrderResult → List StationEvent
  | .refused _ => []
  | .applied a _ _ _ => a.raised

theorem State.order_station_self (s : State) (i : StationId) (f : Act → OrderResult) :
    (s.order i f).1.station i = (f (Act.start (s.station i))).leaves (s.station i) := by
  unfold State.order OrderResult.leaves; split <;> simp_all

theorem State.order_station_ne (s : State) {i j : StationId} (f : Act → OrderResult) (h : j ≠ i) :
    (s.order i f).1.station j = s.station j := by
  unfold State.order; split
  · rfl
  · exact State.event_station_ne s _ h

theorem State.order_outcome (s : State) (i : StationId) (f : Act → OrderResult) :
    (s.order i f).2 = (f (Act.start (s.station i))).outcome := by
  unfold State.order OrderResult.outcome; split <;> simp_all

theorem State.order_events (s : State) (i : StationId) (f : Act → OrderResult) :
    (s.order i f).1.events =
      ((f (Act.start (s.station i))).raises).foldl (fun e k => e.raiseStation i k) s.events := by
  unfold State.order OrderResult.raises; split <;> simp_all [State.event_events]

theorem State.order_flagsOf_ne (s : State) {i j : StationId} (f : Act → OrderResult) (h : j ≠ i) :
    (s.order i f).1.flagsOf j = s.flagsOf j := by
  unfold State.flagsOf
  rw [State.order_events]
  exact EventUnit.raiseStations_flags_ne _ _ h

@[simp] theorem State.orders_library (f : StationId → BitVec 8 → Act → OrderResult) (is : List StationId)
    (s : State) : (State.orders f is s).1.library = s.library := by
  induction is generalizing s with
  | nil => rfl
  | cons i is ih => simp [State.orders, ih]

@[simp] theorem State.orders_host (f : StationId → BitVec 8 → Act → OrderResult) (is : List StationId)
    (s : State) : (State.orders f is s).1.host = s.host := by
  induction is generalizing s with
  | nil => rfl
  | cons i is ih => simp [State.orders, ih]

@[simp] theorem State.orders_pending (f : StationId → BitVec 8 → Act → OrderResult) (is : List StationId)
    (s : State) : (State.orders f is s).1.pending = s.pending := by
  induction is generalizing s with
  | nil => rfl
  | cons i is ih => simp [State.orders, ih]

/-- The result of an order at station `i` of a part, as it stands before the order. -/
def State.resultAt (s : State) (f : StationId → BitVec 8 → Act → OrderResult) (i : StationId) : OrderResult :=
  f i (s.flagsOf i) (Act.start (s.station i))

/-- An order acts on each station of its list by that station alone, and leaves the others (R134, R135). -/
theorem State.orders_station (f : StationId → BitVec 8 → Act → OrderResult) (is : List StationId) (s : State)
    (nd : is.Nodup) (j : StationId) :
    (State.orders f is s).1.station j = if j ∈ is then (s.resultAt f j).leaves (s.station j) else s.station j := by
  induction is generalizing s with
  | nil => simp [State.orders]
  | cons i is ih =>
    have hi := (List.nodup_cons.mp nd).1
    simp only [State.orders]
    rw [ih _ (List.nodup_cons.mp nd).2]
    by_cases hj : j = i
    · subst hj
      simp [hi, State.order_station_self, State.resultAt]
    · have hs := State.order_station_ne s (f i (s.flagsOf i)) hj
      have hf := State.order_flagsOf_ne s (f i (s.flagsOf i)) hj
      simp [hj, State.resultAt, hs, hf]

/-- The outcome list of an order: each station of the list with its own outcome (R134). -/
theorem State.orders_outcomes (f : StationId → BitVec 8 → Act → OrderResult) (is : List StationId) (s : State)
    (nd : is.Nodup) :
    (State.orders f is s).2 = is.map fun i => (i, (s.resultAt f i).outcome) := by
  induction is generalizing s with
  | nil => rfl
  | cons i is ih =>
    have hi := (List.nodup_cons.mp nd).1
    simp only [State.orders, List.map_cons]
    rw [ih _ (List.nodup_cons.mp nd).2, State.order_outcome]
    congr 1
    apply List.map_congr_left
    intro j hj
    have hne : j ≠ i := fun e => hi (e ▸ hj)
    simp [State.resultAt, State.order_station_ne s _ hne, State.order_flagsOf_ne s _ hne]

/-- An order that raises no event anywhere leaves the event unit. -/
theorem State.orders_events_quiet (f : StationId → BitVec 8 → Act → OrderResult) (is : List StationId)
    (s : State) (quiet : ∀ i fl st, (f i fl (Act.start st)).raises = []) :
    (State.orders f is s).1.events = s.events := by
  induction is generalizing s with
  | nil => rfl
  | cons i is ih => simp [State.orders, ih, State.order_events, quiet]

theorem members_nodup (set : StationSet) : (members set).Nodup := by
  unfold members allStations
  exact List.Nodup.filter _ (by decide)

theorem mem_allStations (i : StationId) : i ∈ allStations := by revert i; decide

theorem mem_members (set : StationSet) (i : StationId) : i ∈ members set ↔ set.getLsbD i.val = true := by
  unfold members
  rw [List.mem_filter]
  constructor
  · exact fun h => h.2
  · intro h; exact ⟨mem_allStations i, h⟩

theorem members_empty : members 0#8 = [] := by decide

/-! ## Taking the head of a key queue -/

/-- When the head may be taken (R49). -/
theorem Station.head?_some {st : Station} {it : Item} {x : FormInstance} (h : st.head? = some (it, x)) :
    st.state = .active ∧ st.form = some x ∧ st.queue.head? = some it ∧ st.keyboard.takes = true ∧
      x.settling = false := by
  unfold Station.head? at h
  split at h
  · split at h
    · rename_i h1 h2 h3 h4
      obtain ⟨rfl, rfl⟩ := Prod.mk.injEq .. ▸ Option.some.inj h
      simp_all
    · cases h
  · cases h

theorem Station.head?_of {st : Station} {it : Item} {q : List Item} {x : FormInstance} (h1 : st.state = .active)
    (h2 : st.form = some x) (h3 : st.queue = it :: q) (h4 : st.keyboard.takes = true)
    (h5 : x.settling = false) : st.head? = some (it, x) := by
  simp [Station.head?, h1, h2, h3, h4, h5]

/-- A taken item is one event at its station. -/
theorem State.take_some {s : State} {i : StationId} {want : Item → Bool} {act : Item → Act → FormInstance → Act}
    {it : Item} {x : FormInstance} (h : (s.station i).head? = some (it, x)) (hw : want it = true) :
    s.take i want act = (s.event i fun a => a.takeItem it x (act it)).done := by
  simp [State.take, h, hw]

/-- What taking an item answers: an event, or nothing where the head is not such an item. -/
theorem State.take_cases (s : State) (i : StationId) (want : Item → Bool)
    (act : Item → Act → FormInstance → Act) :
    (∃ it x, (s.station i).head? = some (it, x) ∧ want it = true ∧
      s.take i want act = (s.event i fun a => a.takeItem it x (act it)).done) ∨
    s.take i want act = .next s := by
  unfold State.take
  split
  · split
    · exact .inl ⟨_, _, by assumption, by assumption, rfl⟩
    · exact .inr rfl
  · exact .inr rfl

/-- In FREE an item is acted on with the queue shortened by it. -/
theorem Act.takeItem_free {a : Act} (it : Item) (x : FormInstance) (act : Act → FormInstance → Act)
    (h : a.station.keyboard = .free) : a.takeItem it x act = act a.dropHead x := by
  simp [Act.takeItem, h]

end Sys2Proof.Machine
end

