-- ==== Sys2Proof/Laws/Moves.lean ====
section
/-! SUPPORT. Everything a command can do to a station, to the library and to the host line, said once: every
invariant follows from `exec_station`, `exec_library` and `exec_host` by cases. -/

namespace Sys2Proof.Machine

/-! ## Stations -/

/-- What taking an item in FREE does, by the kind of item. -/
def itemAct (l : Library) (i : StationId) : Item → Act → FormInstance → Act
  | .char c => fun a x => a.enterChar x c
  | .edit .insert => fun a x => a.toggleInsert x
  | .edit .delete => fun a x => a.delete x
  | .edit .backspace => fun a x => a.backspace x
  | .edit .eraseField => fun a x => a.eraseField x
  | .edit .eraseInput => fun a x => a.eraseInput x
  | .move .tab => fun a x => a.move x (x.tabFrom x.cursor)
  | .move .backtab => fun a x => a.move x x.backtabTo
  | .move .up => fun a x => a.move x (upOf x.cursor)
  | .move .down => fun a x => a.move x (downOf x.cursor)
  | .move .left => fun a x => a.move x (leftOf x.cursor)
  | .move .right => fun a x => a.move x (rightOf x.cursor)
  | .move .home => fun a x => a.move x x.homeTo
  | .move .newline => fun a x => a.move x x.newlineTo
  | .move .pageNext => fun a x => a.pageKey x x.nextPage
  | .move .pagePrior => fun a x => a.pageKey x x.priorPage
  | .reset => fun a x => a.reset x
  | .intent .enter => fun a x => a.send x fun a y => a.fullSend i .enter y
  | .intent (.function n) => fun a x => a.send x fun a y => a.functionSend i n y
  | .intent .cancel => fun a x => a.send x fun a y => a.compose i .cancel false y
  | .intent .clear => fun a x => a.send x fun a y => a.compose i .clear false y.restore
  | .scan text => fun a x => a.scanItem l.routes x text

/-- What an order does at station `i`, by the request that carries it. -/
def orderOf (l : Library) (i : StationId) (flags : BitVec 8) : Request → Option (Act → OrderResult)
  | .showForm _ form hold => some (showOrder l form hold)
  | .write _ order => some (writeOrder order)
  | .notice _ tone text => some (noticeOrder tone text)
  | .hold _ => some holdOrder
  | .release _ => some releaseOrder
  | .page _ page => some (pageOrder page)
  | .reread _ => some (rereadOrder i)
  | .stationSet _ change => some (stationSetOrder change)
  | .stationReset _ => some fun a => .plain a.stationReset
  | .suspend _ => some (suspendOrder flags)
  | .resume _ => some resumeOrder
  | .stage _ | .discard | .commit _ | .lock _ | .pollScan _ | .pollNext _ | .status | .stationStatus _
  | .identify | .enableEvents _ | .clearEvents _ _ | .partReset => none

/-- The events that one command may make at station `i`, which stands as `st` with event flags `flags`. -/
inductive ActMove (l : Library) (i : StationId) (flags : BitVec 8) (st : Station) : Act → Prop
  | taken {it : Item} {x : FormInstance} (h : st.head? = some (it, x)) :
      ActMove l i flags st ((Act.start st).takeItem it x (itemAct l i it))
  | silent (h : st.line.silence.isSome = true) : ActMove l i flags st (Act.start st).lineDown
  | sent (h : st.line.inFlight.isSome = true) : ActMove l i flags st (Act.start st).transmitted
  | expires (h : st.timer.isSome = true) : ActMove l i flags st (Act.start st).expire
  | collected (h : st.waits = true) :
      ActMove l i flags st (Act.start st).collect
  | ordered {r : Request} {f : Act → OrderResult} {a : Act} {late : Bool} {sk : List (Nat × SkipReason)}
      {cut : List Nat} (valid : requestValid r = true) (h : orderOf l i flags r = some f)
      (ha : f (Act.start st) = .applied a late sk cut) : ActMove l i flags st a
  | partReset : ActMove l i flags st (Act.start st).partReset

/-- What one byte or one message of its line may leave a station as: its receiver alone has changed, a damaged
message is counted, or an accepted one makes an event (R155, R156, R199). -/
inductive LineMove (st : Station) : Station → Prop
  | read (r : Receiver) : LineMove st { st with line := st.line.setReceiver r }
  | parity : LineMove st { st with line := st.line.countParity }
  | framing : LineMove st { st with line := st.line.countFraming }
  | accepted {u : Upstream} (h : ∃ type body, decodeUpstream type body = some u) :
      LineMove st (((Act.start st).hear.handOn u).finish st.image)

/-- What one command may leave station `i` as. -/
inductive StationMove (l : Library) (i : StationId) (flags : BitVec 8) (st : Station) : Station → Prop
  | stays : StationMove l i flags st st
  | power : StationMove l i flags st Station.reset
  | event {a : Act} (h : ActMove l i flags st a) : StationMove l i flags st (a.finish st.image)
  | heard {u : Station} (h : Relation.ReflTransGen LineMove st u) : StationMove l i flags st u

/-- Each station of `t` is what one command may leave it as in `s`. -/
def StationsMove (s t : State) : Prop :=
  ∀ i, StationMove s.library i (s.flagsOf i) (s.station i) (t.station i)

theorem StationsMove.of_eq {s t : State} (h : ∀ i, t.station i = s.station i) : StationsMove s t :=
  fun i => by rw [h i]; exact .stays

theorem StationsMove.event {s : State} {i : StationId} {f : Act → Act}
    (h : ActMove s.library i (s.flagsOf i) (s.station i) (f (Act.start (s.station i)))) :
    StationsMove s (s.event i f) := fun j => by
  by_cases hj : j = i
  · subst hj; rw [State.event_station_self]; exact .event h
  · rw [State.event_station_ne s f hj]; exact .stays

theorem StationsMove.take {s t : State} {i : StationId} {want : Item → Bool}
    {act : Item → Act → FormInstance → Act} (hact : ∀ it, want it = true → act it = itemAct s.library i it)
    (h : s.take i want act = .next t) : StationsMove s t := by
  obtain ⟨it, x, hd, hw, he⟩ | he := State.take_cases s i want act
  · rw [he, State.done_eq] at h
    cases h
    intro j
    exact StationsMove.event (f := fun a => a.takeItem it x (act it))
      (by rw [hact it hw]; exact .taken hd) j
  · rw [he] at h; cases h; exact .of_eq fun _ => rfl

theorem decodeUpstream_of_judge {m : LineMessage} {u : Upstream} (h : judge m = .accepted u) :
    ∃ type body, decodeUpstream type body = some u := by
  unfold judge at h
  repeat' split at h
  all_goals first | cases h; done | (cases h; exact ⟨m.type, m.body, by assumption⟩)

/-- An arriving message at its own station, and at the others (R155, R156). -/
theorem State.receive_station (s : State) (i : StationId) (m : LineMessage) :
    LineMove (s.station i) ((s.receive i m).station i) ∧
      ∀ j, j ≠ i → (s.receive i m).station j = s.station j := by
  unfold State.receive
  split
  · exact ⟨by rw [State.modLine_station_self]; exact .parity, fun _ h => State.modLine_station_ne s _ h⟩
  · exact ⟨by rw [State.modLine_station_self]; exact .framing, fun _ h => State.modLine_station_ne s _ h⟩
  · next u hu =>
    exact ⟨by rw [State.event_station_self]; exact .accepted (decodeUpstream_of_judge hu),
      fun _ h => State.event_station_ne s _ h⟩

/-- One byte of a station line, at its own station and at the others (R199). -/
theorem State.lineByte_station (s : State) (i : StationId) (b : LineByte) :
    Relation.ReflTransGen LineMove (s.station i) ((s.lineByte i b).station i) ∧
      ∀ j, j ≠ i → (s.lineByte i b).station j = s.station j := by
  have read : LineMove (s.station i)
      ((s.modLine i (·.setReceiver ((s.station i).line.receiver.read b).1)).station i) := by
    rw [State.modLine_station_self]; exact .read _
  have others : ∀ j, j ≠ i →
      (s.modLine i (·.setReceiver ((s.station i).line.receiver.read b).1)).station j = s.station j :=
    fun _ h => State.modLine_station_ne s _ h
  unfold State.lineByte State.arrive
  dsimp only
  split
  · exact ⟨.single read, others⟩
  · next m _ =>
    obtain ⟨h1, h2⟩ := State.receive_station (s.modLine i
      (·.setReceiver ((s.station i).line.receiver.read b).1)) i m
    exact ⟨(Relation.ReflTransGen.single read).tail h1, fun j h => (h2 j h).trans (others j h)⟩

/-- Bytes of a station line, at its own station and at the others (R199). -/
theorem State.lineBytes_station (bytes : List LineByte) (s : State) (i : StationId) :
    Relation.ReflTransGen LineMove (s.station i) ((s.lineBytes i bytes).station i) ∧
      ∀ j, j ≠ i → (s.lineBytes i bytes).station j = s.station j := by
  induction bytes generalizing s with
  | nil => exact ⟨.refl, fun _ _ => rfl⟩
  | cons b bs ih =>
    obtain ⟨h1, h2⟩ := s.lineByte_station i b
    obtain ⟨k1, k2⟩ := ih (s.lineByte i b)
    exact ⟨h1.trans k1, fun j h => (k2 j h).trans (h2 j h)⟩

theorem StationsMove.heard {s t : State} {i : StationId}
    (h : Relation.ReflTransGen LineMove (s.station i) (t.station i) ∧
      ∀ j, j ≠ i → t.station j = s.station j) : StationsMove s t := fun j => by
  by_cases hj : j = i
  · subst hj; exact .heard h.1
  · rw [h.2 j hj]; exact .stays

theorem StationsMove.receive (s : State) (i : StationId) (m : LineMessage) :
    StationsMove s (s.receive i m) :=
  .heard ⟨.single (s.receive_station i m).1, (s.receive_station i m).2⟩

theorem StationsMove.orders {s : State} {r : Request} (valid : requestValid r = true) (set : StationSet)
    {f : StationId → BitVec 8 → Act → OrderResult}
    (hf : ∀ i, orderOf s.library i (s.flagsOf i) r = some (f i (s.flagsOf i))) :
    StationsMove s (s.orders f (members set)).1 := fun j => by
  rw [State.orders_station f _ s (members_nodup set)]
  split
  · unfold OrderResult.leaves
    cases hr : s.resultAt f j with
    | refused c => exact .stays
    | applied a late sk cut => exact .event (.ordered valid (hf j) hr)
  · exact .stays

theorem State.collect_station_self (s : State) (i : StationId) :
    (s.collect i).station i =
      (Act.start (s.station i)).collect.finish (s.station i).image :=
  State.event_station_self s i Act.collect

theorem State.collect_station_ne (s : State) {i j : StationId} (h : j ≠ i) :
    (s.collect i).station j = s.station j :=
  State.event_station_ne s Act.collect h

@[simp] theorem State.collect_library (s : State) (i : StationId) : (s.collect i).library = s.library := rfl
@[simp] theorem State.collect_host (s : State) (i : StationId) : (s.collect i).host = s.host := rfl
@[simp] theorem State.collect_pending (s : State) (i : StationId) : (s.collect i).pending = s.pending := rfl

/-- Collecting the stations of a list collects each of them once and leaves the others. -/
theorem State.collects_station (is : List StationId) (s : State) (nd : is.Nodup) (j : StationId) :
    (is.foldl State.collect s).station j = if j ∈ is then (s.collect j).station j else s.station j := by
  induction is generalizing s with
  | nil => simp
  | cons i is ih =>
    have hi := (List.nodup_cons.mp nd).1
    rw [List.foldl_cons, ih _ (List.nodup_cons.mp nd).2]
    by_cases hj : j = i
    · subst hj; simp [hi]
    · simp [hj, State.collect_station_self, State.collect_station_ne s hj]

@[simp] theorem State.collects_library (is : List StationId) (s : State) :
    (is.foldl State.collect s).library = s.library := by
  induction is generalizing s with
  | nil => rfl
  | cons i is ih => simp [ih]
@[simp] theorem State.collects_host (is : List StationId) (s : State) :
    (is.foldl State.collect s).host = s.host := by
  induction is generalizing s with
  | nil => rfl
  | cons i is ih => simp [ih]
@[simp] theorem State.collects_pending (is : List StationId) (s : State) :
    (is.foldl State.collect s).pending = s.pending := by
  induction is generalizing s with
  | nil => rfl
  | cons i is ih => simp [ih]

/-- PART RESET at the stations of a list. -/
theorem State.resets_station (is : List StationId) (s : State) (nd : is.Nodup) (j : StationId) :
    (is.foldl (fun t i => t.event i Act.partReset) s).station j =
      if j ∈ is then (Act.start (s.station j)).partReset.finish (s.station j).image else s.station j := by
  induction is generalizing s with
  | nil => simp
  | cons i is ih =>
    have hi := (List.nodup_cons.mp nd).1
    rw [List.foldl_cons, ih _ (List.nodup_cons.mp nd).2]
    by_cases hj : j = i
    · subst hj; simp [hi]
    · simp [hj, State.event_station_ne s _ hj]

theorem State.resets_frame (is : List StationId) (s : State) :
    (is.foldl (fun t i => t.event i Act.partReset) s).library = s.library ∧
    (is.foldl (fun t i => t.event i Act.partReset) s).host = s.host ∧
    (is.foldl (fun t i => t.event i Act.partReset) s).pending = s.pending := by
  induction is generalizing s with
  | nil => simp
  | cons i is ih => simpa using ih (s.event i Act.partReset)

/-- PART RESET leaves each station as its composer's and its line unit's reset do. -/
theorem State.resetPart_station (s : State) (tag : Byte) (j : StationId) :
    (s.resetPart tag).station j = (Act.start (s.station j)).partReset.finish (s.station j).image := by
  have h := State.resets_station allStations s (by decide) j
  rw [if_pos (mem_allStations j)] at h
  exact h

/-- CLEAR by STATION RESET of the flags of its stations changes the event unit alone. -/
theorem State.clears_frame (is : List StationId) (s : State) (m : BitVec 8) :
    let t := is.foldl (fun t i => { t with events := t.events.clearStation i m }) s
    t.library = s.library ∧ t.host = s.host ∧ t.pending = s.pending ∧ ∀ j, t.station j = s.station j := by
  induction is generalizing s with
  | nil => simp
  | cons i is ih =>
    obtain ⟨h1, h2, h3, h4⟩ := ih { s with events := s.events.clearStation i m }
    exact ⟨h1, h2, h3, fun j => (h4 j).trans rfl⟩

theorem StationsMove.pollScan (s : State) (tag : Byte) (set : StationSet) :
    StationsMove s (s.pollScan tag set) := fun j => by
  have nd : ((members set).filter fun i => (s.station i).waits).Nodup := (members_nodup set).filter _
  have h : (s.pollScan tag set).station j =
      (((members set).filter fun i => (s.station i).waits).foldl State.collect s).station j := rfl
  rw [h, State.collects_station _ s nd]
  split
  · next hj =>
    rw [State.collect_station_self]
    exact .event (.collected (List.mem_filter.mp hj).2)
  · exact .stays

theorem StationsMove.pollNext (s : State) (tag : Byte) (set : StationSet) :
    StationsMove s (s.pollNext tag set) := by
  unfold State.pollNext
  split
  · next i hi =>
    intro j
    have hw : (s.station i).waits = true := by simpa using List.find?_some hi
    by_cases hj : j = i
    · subst hj
      show StationMove _ _ _ _ ((s.collect j).station j)
      rw [State.collect_station_self]
      exact .event (.collected hw)
    · show StationMove _ _ _ _ ((s.collect i).station j)
      rw [State.collect_station_ne s hj]; exact .stays
  · exact .of_eq fun _ => rfl

theorem StationsMove.serve {s : State} (tag : Byte) (payload : List Byte) {r : Request}
    (valid : requestValid r = true) : StationsMove s (s.serve tag payload r) := by
  cases r with
  | stage load => exact .of_eq fun _ => rfl
  | discard => exact .of_eq fun _ => rfl
  | commit check => exact .of_eq fun _ => rfl
  | lock kinds => exact .of_eq fun _ => rfl
  | showForm set form hold => exact StationsMove.orders valid set fun _ => rfl
  | write set order => exact StationsMove.orders valid set fun _ => rfl
  | notice set tone text => exact StationsMove.orders valid set fun _ => rfl
  | hold set => exact StationsMove.orders valid set fun _ => rfl
  | release set => exact StationsMove.orders valid set fun _ => rfl
  | page set page => exact StationsMove.orders valid set fun _ => rfl
  | reread set => exact StationsMove.orders valid set fun _ => rfl
  | stationSet set change => exact StationsMove.orders valid set fun _ => rfl
  | stationReset set =>
    intro j
    have h := StationsMove.orders valid set (s := s) (f := fun _ _ a => .plain a.stationReset) (fun _ => rfl) j
    have h' := (State.clears_frame (members set)
      (s.orders (fun _ _ a => .plain a.stationReset) (members set)).1 0xFF#8).2.2.2 j
    show StationMove _ _ _ _ (State.station (List.foldl _ _ _) j)
    rw [h']; exact h
  | suspend set => exact StationsMove.orders valid set fun _ => rfl
  | resume set => exact StationsMove.orders valid set fun _ => rfl
  | pollScan set =>
    show StationsMove s (s.poll tag set fun t => t.pollScan tag set)
    unfold State.poll
    split
    · exact .of_eq fun _ => rfl
    · exact StationsMove.pollScan (s.modHost (·.setGroup set)) tag set
  | pollNext set =>
    show StationsMove s (s.poll tag set fun t => t.pollNext tag set)
    unfold State.poll
    split
    · exact .of_eq fun _ => rfl
    · exact StationsMove.pollNext (s.modHost (·.setGroup set)) tag set
  | status => exact .of_eq fun _ => rfl
  | stationStatus i => exact .of_eq fun _ => rfl
  | identify => exact .of_eq fun _ => rfl
  | enableEvents enables => exact .of_eq fun _ => rfl
  | clearEvents part flags => exact .of_eq fun _ => rfl
  | partReset =>
    intro j
    show StationMove _ _ _ _ ((s.resetPart tag).station j)
    rw [State.resetPart_station]
    exact .event .partReset

end Sys2Proof.Machine
end

