-- ==== Sys2Proof/Laws/Commands.lean ====
section
/-! SUPPORT. What one command can do to the stations, the library, the host line and the command queue. -/

namespace Sys2Proof.Machine

/-! ## An accepted frame -/

/-- What becomes of a frame that has passed its check: an overrun, a refusal, or a valid request served
(R172, R173). -/
theorem State.accept_cases (s : State) (tag kind : Byte) (payload : List Byte) (q : Option Request)
    (valid : ∀ r, q = some r → requestValid r = true) :
    (s.host.outstanding ≥ 4 ∧ s.accept tag kind payload q = s.overrun) ∨
    (s.host.outstanding < 4 ∧
      ∃ c, s.accept tag kind payload q = s.countIn.respond tag (.refuse kind (.code c))) ∨
    (s.host.outstanding < 4 ∧ ∃ r, q = some r ∧ requestValid r = true ∧ earlyRefusal r = none ∧
      s.accept tag kind payload q = s.countIn.serve tag payload r) := by
  unfold State.accept
  by_cases h : s.host.outstanding < Config.outstandingRequests
  · rw [if_pos h]
    have h4 : s.host.outstanding < 4 := h
    cases q with
    | none => exact .inr (.inl ⟨h4, _, rfl⟩)
    | some r =>
      unfold State.decide
      cases hr : earlyRefusal r with
      | some c => exact .inr (.inl ⟨h4, c, by simp only [hr]⟩)
      | none => exact .inr (.inr ⟨h4, r, rfl, valid r rfl, hr, by simp only [hr]⟩)
  · rw [if_neg h]
    exact .inl ⟨Nat.le_of_not_lt h, rfl⟩

theorem decodeRequest_valid {kind : Byte} {payload : List Byte} {r : Request}
    (h : decodeRequest kind payload = some r) : requestValid r = true := by
  unfold decodeRequest at h
  exact (Option.filter_eq_some_iff.mp h).2

theorem requestOption_valid {q r : Request} (h : (if requestValid q then some q else none) = some r) :
    requestValid r = true := by
  split at h
  · cases h; assumption
  · cases h

/-! ## Stations -/

theorem StationsMove.accept (s : State) (tag kind : Byte) (payload : List Byte) (q : Option Request)
    (valid : ∀ r, q = some r → requestValid r = true) : StationsMove s (s.accept tag kind payload q) := by
  obtain ⟨-, h⟩ | ⟨-, c, h⟩ | ⟨-, r, -, hv, -, h⟩ := s.accept_cases tag kind payload q valid <;> rw [h]
  · exact .of_eq fun _ => rfl
  · exact .of_eq fun _ => rfl
  · exact StationsMove.serve (s := s.countIn) tag payload hv

theorem StationsMove.request (s : State) (tag : Byte) (r : Request) : StationsMove s (s.request tag r) := by
  unfold State.request
  split
  · exact .of_eq fun _ => rfl
  · exact .accept _ _ _ _ _ fun _ => requestOption_valid

theorem StationsMove.hostByte (s : State) (b : Byte) : StationsMove s (s.hostByte b) := by
  unfold State.hostByte
  split
  · split <;> exact .of_eq fun _ => rfl
  · split
    · unfold State.lengthByte; split <;> exact .of_eq fun _ => rfl
    · exact .of_eq fun _ => rfl
  · split <;> exact .of_eq fun _ => rfl
  · split
    · exact .of_eq fun _ => rfl
    · unfold State.frameArrives
      dsimp only
      split
      · exact StationsMove.accept (s.modHost fun h => { h with framer := .hunt }) _ _ _ _
          fun _ => decodeRequest_valid
      · exact .of_eq fun _ => rfl

theorem StationsMove.done {s t u : State} (h : StationsMove s t) (e : t.done = .next u) : StationsMove s u := by
  cases e; exact h

theorem StationsMove.request_done {s t : State} {tag : Byte} {r : Request}
    (h : (s.request tag r).done = .next t) : StationsMove s t := (StationsMove.request s tag r).done h

theorem StationsMove.hostByte_done {s t : State} {b : Byte} (h : (s.hostByte b).done = .next t) :
    StationsMove s t := (StationsMove.hostByte s b).done h

theorem StationsMove.receive_done {s t : State} {i : StationId} {m : LineMessage}
    (h : (s.receive i m).done = .next t) : StationsMove s t := (StationsMove.receive s i m).done h

theorem State.reset_station (i : StationId) : State.reset.station i = Station.reset := by
  simp [State.station, State.reset]

/-- EVERY COMMAND, AT EVERY STATION: what it leaves the station as. -/
theorem exec_station {c : Instr} {s t : State} (h : exec c s = .next t) : StationsMove s t := by
  cases c
  case powerOn =>
    cases h
    intro i
    show StationMove _ _ _ _ (State.reset.station i)
    rw [State.reset_station]
    exact .power
  case responseTransmissionComplete =>
    simp only [exec, execResponseTransmissionComplete] at h
    split at h <;> cases h <;> exact .of_eq fun _ => rfl
  case holdOffExpiry =>
    simp only [exec, execHoldOffExpiry] at h
    split at h <;> cases h <;> exact .of_eq fun _ => rfl
  case silenceTimerExpiry i =>
    simp only [exec, execSilenceTimerExpiry] at h
    split at h
    · next hs => exact StationsMove.done (.event (.silent hs)) h
    · cases h; exact .of_eq fun _ => rfl
  case transmissionComplete i =>
    simp only [exec, execTransmissionComplete] at h
    split at h
    · next hs => exact StationsMove.done (.event (.sent hs)) h
    · cases h; exact .of_eq fun _ => rfl
  case responseTimerExpiry i =>
    simp only [exec, execResponseTimerExpiry] at h
    split at h
    · next hs => exact StationsMove.done (.event (.expires hs)) h
    · cases h; exact .of_eq fun _ => rfl
  case requestFrame => exact .hostByte_done h
  case frameLengthError => exact .hostByte_done h
  case hostLineByteReceived => exact .hostByte_done h
  case key => exact .receive_done h
  case scan => exact .receive_done h
  case attn => exact .receive_done h
  case alive => exact .receive_done h
  case damagedMessage i bytes => exact StationsMove.done (.heard (s.lineBytes_station bytes i)) h
  case char | functionKey | scanItem =>
    refine StationsMove.take ?_ h
    intro it hw
    split at hw <;> simp_all [itemAct]
  case insert | delete | backspace | eraseField | eraseInput | tab | backtab | up | down | left | right | home
    | newline | pageNext | pagePrior | reset | enter | cancel | clear =>
    refine StationsMove.take ?_ h
    intro it hw
    simp only [beq_iff_eq] at hw
    subst hw
    rfl
  all_goals exact .request_done h

/-! ## The library -/

/-- What one command may leave the library as. -/
inductive LibraryMove (l : Library) : Library → Prop
  | stays : LibraryMove l l
  | power : LibraryMove l Library.reset
  | staged {load : StageLoad} (payload : List Byte) (valid : loadValid load = true) :
      LibraryMove l (l.stage load payload).1
  | emptied : LibraryMove l l.emptyStaging
  | committed (check : Half) : LibraryMove l (l.commit check).1
  | locked (kinds : BitVec 3) : LibraryMove l (l.lock kinds).1

theorem State.poll_library {s : State} {tag : Byte} {set : StationSet} {f : State → State}
    (h : ∀ u, (f u).library = u.library) : (s.poll tag set f).library = s.library := by
  unfold State.poll; split
  · rfl
  · rw [h]; rfl

@[simp] theorem State.pollScan_library (s : State) (tag : Byte) (set : StationSet) :
    (s.pollScan tag set).library = s.library := by
  simp [State.pollScan]

@[simp] theorem State.pollNext_library (s : State) (tag : Byte) (set : StationSet) :
    (s.pollNext tag set).library = s.library := by
  unfold State.pollNext; split <;> simp

theorem LibraryMove.serve {s : State} (tag : Byte) (payload : List Byte) {r : Request}
    (valid : requestValid r = true) : LibraryMove s.library (s.serve tag payload r).library := by
  have keep : ∀ l, l = s.library → LibraryMove s.library l := fun l h => h ▸ .stays
  cases r with
  | stage load => exact .staged payload valid
  | discard => exact .emptied
  | commit check => exact .committed check
  | lock kinds => exact .locked kinds
  | stationReset set => exact keep _ (((State.clears_frame _ _ _).1).trans (State.orders_library _ _ _))
  | pollScan set => exact keep _ (State.poll_library fun u => u.pollScan_library tag set)
  | pollNext set => exact keep _ (State.poll_library fun u => u.pollNext_library tag set)
  | partReset =>
    have h : (s.resetPart tag).library = s.library.emptyStaging :=
      congrArg Library.emptyStaging (State.resets_frame allStations s).1
    show LibraryMove _ (s.resetPart tag).library
    rw [h]; exact .emptied
  | status => exact .stays
  | stationStatus i => exact .stays
  | identify => exact .stays
  | enableEvents enables => exact .stays
  | clearEvents part flags => exact .stays
  | _ => exact keep _ (State.orders_library _ _ _)

theorem LibraryMove.accept (s : State) (tag kind : Byte) (payload : List Byte) (q : Option Request)
    (valid : ∀ r, q = some r → requestValid r = true) :
    LibraryMove s.library (s.accept tag kind payload q).library := by
  obtain ⟨-, h⟩ | ⟨-, c, h⟩ | ⟨-, r, -, hv, -, h⟩ := s.accept_cases tag kind payload q valid <;> rw [h]
  · exact .stays
  · exact .stays
  · exact LibraryMove.serve (s := s.countIn) tag payload hv

theorem LibraryMove.request (s : State) (tag : Byte) (r : Request) :
    LibraryMove s.library (s.request tag r).library := by
  unfold State.request
  split
  · exact .stays
  · exact .accept _ _ _ _ _ fun _ => requestOption_valid

theorem LibraryMove.hostByte (s : State) (b : Byte) : LibraryMove s.library (s.hostByte b).library := by
  unfold State.hostByte
  split
  · split <;> exact .stays
  · split
    · unfold State.lengthByte; split <;> exact .stays
    · exact .stays
  · split <;> exact .stays
  · split
    · exact .stays
    · unfold State.frameArrives
      dsimp only
      split
      · exact LibraryMove.accept (s.modHost fun h => { h with framer := .hunt }) _ _ _ _
          fun _ => decodeRequest_valid
      · exact .stays

theorem State.receive_frame (s : State) (i : StationId) (m : LineMessage) :
    (s.receive i m).library = s.library ∧ (s.receive i m).host = s.host ∧
      (s.receive i m).pending = s.pending := by
  unfold State.receive; split <;> simp

theorem State.lineByte_frame (s : State) (i : StationId) (b : LineByte) :
    (s.lineByte i b).library = s.library ∧ (s.lineByte i b).host = s.host ∧
      (s.lineByte i b).pending = s.pending := by
  unfold State.lineByte State.arrive
  dsimp only
  split
  · simp
  · simpa using State.receive_frame (s.modLine i _) i _

theorem State.lineBytes_frame (bytes : List LineByte) (s : State) (i : StationId) :
    (s.lineBytes i bytes).library = s.library ∧ (s.lineBytes i bytes).host = s.host ∧
      (s.lineBytes i bytes).pending = s.pending := by
  induction bytes generalizing s with
  | nil => exact ⟨rfl, rfl, rfl⟩
  | cons b bs ih =>
    obtain ⟨h1, h2, h3⟩ := s.lineByte_frame i b
    obtain ⟨k1, k2, k3⟩ := ih (s.lineByte i b)
    exact ⟨k1.trans h1, k2.trans h2, k3.trans h3⟩

theorem State.take_frame {s t : State} {i : StationId} {want : Item → Bool}
    {act : Item → Act → FormInstance → Act} (h : s.take i want act = .next t) :
    t.library = s.library ∧ t.host = s.host ∧ t.pending = s.pending := by
  obtain ⟨it, x, -, -, he⟩ | he := State.take_cases s i want act <;> rw [he] at h <;> cases h <;> simp

/-- EVERY COMMAND, AT THE LIBRARY: what it leaves it as. -/
theorem exec_library {c : Instr} {s t : State} (h : exec c s = .next t) : LibraryMove s.library t.library := by
  have keep : ∀ l, l = s.library → LibraryMove s.library l := fun l h => h ▸ .stays
  cases c
  case powerOn => cases h; exact .power
  case responseTransmissionComplete =>
    simp only [exec, execResponseTransmissionComplete] at h
    split at h <;> cases h <;> exact .stays
  case holdOffExpiry =>
    simp only [exec, execHoldOffExpiry] at h
    split at h <;> cases h <;> exact .stays
  case silenceTimerExpiry i =>
    simp only [exec, execSilenceTimerExpiry] at h
    split at h <;> cases h <;> exact .stays
  case transmissionComplete i =>
    simp only [exec, execTransmissionComplete] at h
    split at h <;> cases h <;> exact .stays
  case responseTimerExpiry i =>
    simp only [exec, execResponseTimerExpiry] at h
    split at h <;> cases h <;> exact .stays
  case requestFrame b => cases h; exact .hostByte s b
  case frameLengthError b => cases h; exact .hostByte s b
  case hostLineByteReceived b => cases h; exact .hostByte s b
  case key => cases h; exact keep _ (State.receive_frame _ _ _).1
  case scan => cases h; exact keep _ (State.receive_frame _ _ _).1
  case attn => cases h; exact keep _ (State.receive_frame _ _ _).1
  case alive => cases h; exact keep _ (State.receive_frame _ _ _).1
  case damagedMessage => cases h; exact keep _ (State.lineBytes_frame _ _ _).1
  case char | functionKey | scanItem | insert | delete | backspace | eraseField | eraseInput | tab | backtab
    | up | down | left | right | home | newline | pageNext | pagePrior | reset | enter | cancel | clear =>
    exact keep _ (State.take_frame h).1
  all_goals cases h; exact .request s _ _

/-! ## The host line -/

/-- What one command may leave the host line as. The receive framer is changed by the byte commands alone and
is no concern of the transmit side. -/
inductive HostMove (h : HostLine) : HostLine → Prop
  | power : HostMove h HostLine.reset
  | framed (fr : Framer) : HostMove h { h with framer := fr }
  | lengthError (fr : Framer) : HostMove h { h with framer := fr, lengthErrors := bump h.lengthErrors }
  | checkError (fr : Framer) : HostMove h { h with framer := fr, checkErrors := bump h.checkErrors }
  | overrun (fr : Framer) : HostMove h { h with framer := fr, overruns := bump h.overruns }
  | answered (fr : Framer) (set : StationSet) (p : StationId) (tag : Byte) (r : Response)
      (room : h.outstanding < 4) :
      HostMove h (({ h with framer := fr, outstanding := h.outstanding + 1, group := set, pointer := p } :
        HostLine).send [answerFrame tag r])
  | scanned (fr : Framer) (set : StationSet) (p : StationId) (tag : Byte) (u : State) (snapshot : List StationId)
      (room : h.outstanding < 4) (idle : h.polling = .idle) (few : snapshot.length ≤ 8) :
      HostMove h (({ h with framer := fr, outstanding := h.outstanding + 1, group := set, pointer := p,
                            polling := .scanning } : HostLine).send (scanFrames tag u snapshot))
  | reset (fr : Framer) (tag : Byte) (room : h.outstanding < 4) :
      HostMove h (({ h with framer := fr, outstanding := h.outstanding + 1 } : HostLine).partReset.send
        [answerFrame tag (.accept .partReset)])
  | finished {f : TxFrame} (busy : h.inTx = some f) : HostMove h ((h.finishFrame f).startTx)

theorem members_length (set : StationSet) : (members set).length ≤ 8 :=
  (List.length_filter_le _ _).trans (by decide)

theorem HostMove.serve {s : State} (h : HostLine) (fr : Framer) (room : h.outstanding < 4)
    (hs : s.host = { h with framer := fr, outstanding := h.outstanding + 1 }) (tag : Byte)
    (payload : List Byte) (r : Request) : HostMove h (s.serve tag payload r).host := by
  have ans : ∀ (u : State) (res : Response), u.host = s.host → HostMove h (u.respond tag res).host := by
    intro u res hu
    rw [State.respond_host, hu, hs]
    exact .answered fr h.group h.pointer tag res room
  cases r with
  | stage load => exact ans _ _ rfl
  | discard => exact ans _ _ rfl
  | commit check => exact ans _ _ rfl
  | lock kinds => exact ans _ _ rfl
  | stationReset set => exact ans _ _ (((State.clears_frame _ _ _).2.1).trans (State.orders_host _ _ _))
  | pollScan set =>
    show HostMove h (s.poll tag set fun t => t.pollScan tag set).host
    unfold State.poll
    split
    · exact ans _ _ rfl
    · next hp =>
      have hidle : h.polling = .idle := by rw [hs] at hp; exact hp
      have few : ((members set).filter fun i =>
          ((s.modHost (·.setGroup set)).station i).waits).length ≤ 8 :=
        (List.length_filter_le _ _).trans (members_length set)
      simp only [State.pollScan, State.modHost_host, State.collects_host, hs, HostLine.setGroup]
      exact .scanned fr set _ tag _ _ room hidle few
  | pollNext set =>
    show HostMove h (s.poll tag set fun t => t.pollNext tag set).host
    unfold State.poll
    split
    · exact ans _ _ rfl
    · dsimp only [State.pollNext]
      split
      · simp only [State.respond_host, State.modHost_host, State.collect_host, hs, HostLine.setGroup]
        exact .answered fr set _ tag _ room
      · simp only [State.respond_host, State.modHost_host, hs, HostLine.setGroup]
        exact .answered fr set _ tag _ room
  | partReset =>
    have e : (s.resetPart tag).host = s.host.partReset.send [answerFrame tag (.accept .partReset)] := by
      have hr := (State.resets_frame allStations s).2.1
      simp only [State.resetPart, State.respond_host, hr]
    show HostMove h (s.resetPart tag).host
    rw [e, hs]; exact .reset fr tag room
  | status => exact ans _ _ rfl
  | stationStatus i => exact ans _ _ rfl
  | identify => exact ans _ _ rfl
  | enableEvents enables => exact ans _ _ rfl
  | clearEvents part flags => exact ans _ _ rfl
  | _ => exact ans _ _ (State.orders_host _ _ _)

theorem HostMove.accept (s : State) (h : HostLine) (fr : Framer) (hs : s.host = { h with framer := fr })
    (tag kind : Byte) (payload : List Byte) (q : Option Request)
    (valid : ∀ r, q = some r → requestValid r = true) : HostMove h (s.accept tag kind payload q).host := by
  have ho : s.host.outstanding = h.outstanding := by rw [hs]
  obtain ⟨-, e⟩ | ⟨room, c, e⟩ | ⟨room, r, -, -, -, e⟩ := s.accept_cases tag kind payload q valid <;> rw [e]
  · have : s.overrun.host = { h with framer := fr, overruns := bump h.overruns } := by
      simp [State.overrun, hs]
    rw [this]; exact .overrun fr
  · have : (s.countIn.respond tag (.refuse kind (.code c))).host =
        ({ h with framer := fr, outstanding := h.outstanding + 1 } : HostLine).send
          [answerFrame tag (.refuse kind (.code c))] := by
      simp [State.countIn, hs]
    rw [this]; exact .answered fr h.group h.pointer tag _ (ho ▸ room)
  · exact HostMove.serve (s := s.countIn) h fr (ho ▸ room) (by simp [State.countIn, hs]) tag payload r

theorem HostMove.request (s : State) (tag : Byte) (r : Request) : HostMove s.host (s.request tag r).host := by
  unfold State.request
  split
  · exact .lengthError s.host.framer
  · exact .accept s s.host s.host.framer rfl _ _ _ _ fun _ => requestOption_valid

theorem HostMove.hostByte (s : State) (b : Byte) : HostMove s.host (s.hostByte b).host := by
  unfold State.hostByte
  split
  · split
    · exact .framed _
    · exact .framed s.host.framer
  · split
    · unfold State.lengthByte; split
      · exact .framed _
      · exact .lengthError _
    · exact .framed _
  · split <;> exact .framed _
  · split
    · exact .framed _
    · unfold State.frameArrives
      dsimp only
      split
      · exact HostMove.accept (s.modHost fun h => { h with framer := .hunt }) s.host .hunt rfl _ _ _ _
          fun _ => decodeRequest_valid
      · exact .checkError _

/-- EVERY COMMAND, AT THE HOST LINE: what it leaves it as. -/
theorem exec_host {c : Instr} {s t : State} (h : exec c s = .next t) : HostMove s.host t.host := by
  have keep : ∀ l, l = s.host → HostMove s.host l := by rintro _ rfl; exact .framed s.host.framer
  cases c
  case powerOn => cases h; exact .power
  case responseTransmissionComplete =>
    simp only [exec, execResponseTransmissionComplete] at h
    split at h
    · next hf => cases h; exact .finished hf
    · cases h; exact keep _ rfl
  case holdOffExpiry =>
    simp only [exec, execHoldOffExpiry] at h
    split at h <;> cases h <;> exact keep _ rfl
  case silenceTimerExpiry i =>
    simp only [exec, execSilenceTimerExpiry] at h
    split at h <;> cases h <;> exact keep _ rfl
  case transmissionComplete i =>
    simp only [exec, execTransmissionComplete] at h
    split at h <;> cases h <;> exact keep _ rfl
  case responseTimerExpiry i =>
    simp only [exec, execResponseTimerExpiry] at h
    split at h <;> cases h <;> exact keep _ rfl
  case requestFrame b => cases h; exact .hostByte s b
  case frameLengthError b => cases h; exact .hostByte s b
  case hostLineByteReceived b => cases h; exact .hostByte s b
  case key => cases h; exact keep _ (State.receive_frame _ _ _).2.1
  case scan => cases h; exact keep _ (State.receive_frame _ _ _).2.1
  case attn => cases h; exact keep _ (State.receive_frame _ _ _).2.1
  case alive => cases h; exact keep _ (State.receive_frame _ _ _).2.1
  case damagedMessage => cases h; exact keep _ (State.lineBytes_frame _ _ _).2.1
  case char | functionKey | scanItem | insert | delete | backspace | eraseField | eraseInput | tab | backtab
    | up | down | left | right | home | newline | pageNext | pagePrior | reset | enter | cancel | clear =>
    exact keep _ (State.take_frame h).2.1
  all_goals cases h; exact .request s _ _

/-! ## Steps -/

/-- A step idles or carries out the command at the front of the queue. -/
theorem step_cases {s t : State} (h : step s = .next t) :
    (s.pending = [] ∧ t = s) ∨ ∃ c rest, s.pending = c :: rest ∧ exec c { s with pending := rest } = .next t := by
  unfold step at h
  split at h
  · cases h; exact .inl ⟨by assumption, rfl⟩
  · exact .inr ⟨_, _, by assumption, h⟩

theorem step_station {s t : State} (h : step s = .next t) : StationsMove s t := by
  obtain ⟨-, rfl⟩ | ⟨c, rest, -, hc⟩ := step_cases h
  · exact .of_eq fun _ => rfl
  · exact exec_station (s := { s with pending := rest }) hc

theorem step_library {s t : State} (h : step s = .next t) : LibraryMove s.library t.library := by
  obtain ⟨-, rfl⟩ | ⟨c, rest, -, hc⟩ := step_cases h
  · exact .stays
  · exact exec_library (s := { s with pending := rest }) hc

theorem step_host {s t : State} (h : step s = .next t) : HostMove s.host t.host := by
  obtain ⟨-, rfl⟩ | ⟨c, rest, -, hc⟩ := step_cases h
  · exact .framed t.host.framer
  · exact exec_host (s := { s with pending := rest }) hc

end Sys2Proof.Machine
end

