-- ==== Sys2Proof/Laws/Acts.lean ====
section
/-! SUPPORT. What the composer's moves can do: keying changes the instance and the keyboard state alone, a send
also the slot and the response timer. -/

namespace Sys2Proof.Machine

/-- `b` is `a` with nothing changed at the station but the instance and the keyboard state, no event raised,
and an instance held. Tones and a repaint may have been asked. -/
structure Act.Keyed (a b : Act) : Prop where
  state : b.station.state = a.station.state
  queue : b.station.queue = a.station.queue
  slot : b.station.slot = a.station.slot
  attention : b.station.attention = a.station.attention
  timer : b.station.timer = a.station.timer
  settings : b.station.settings = a.station.settings
  notice : b.station.notice = a.station.notice
  line : b.station.line = a.station.line
  raised : b.raised = a.raised
  form : a.station.form.isSome = true → b.station.form.isSome = true

theorem Act.Keyed.refl (a : Act) : a.Keyed a :=
  ⟨rfl, rfl, rfl, rfl, rfl, rfl, rfl, rfl, rfl, id⟩

theorem Act.Keyed.trans {a b c : Act} (h : a.Keyed b) (k : b.Keyed c) : a.Keyed c :=
  ⟨k.state.trans h.state, k.queue.trans h.queue, k.slot.trans h.slot, k.attention.trans h.attention,
    k.timer.trans h.timer, k.settings.trans h.settings, k.notice.trans h.notice, k.line.trans h.line,
    k.raised.trans h.raised, k.form ∘ h.form⟩

theorem Act.keyed_putForm (a : Act) (x : FormInstance) : a.Keyed (a.putForm x) :=
  ⟨rfl, rfl, rfl, rfl, rfl, rfl, rfl, rfl, rfl, fun _ => rfl⟩

theorem Act.keyed_setKeyboard (a : Act) (k : Keyboard) : a.Keyed (a.setKeyboard k) :=
  ⟨rfl, rfl, rfl, rfl, rfl, rfl, rfl, rfl, rfl, id⟩

theorem Act.keyed_ask (a : Act) (t : Tone) : a.Keyed (a.ask t) :=
  ⟨rfl, rfl, rfl, rfl, rfl, rfl, rfl, rfl, rfl, id⟩

theorem Act.keyed_askRepaint (a : Act) : a.Keyed a.askRepaint :=
  ⟨rfl, rfl, rfl, rfl, rfl, rfl, rfl, rfl, rfl, id⟩

theorem Act.keyed_inhibit (a : Act) (r : Reason) : a.Keyed (a.inhibit r) :=
  (a.keyed_setKeyboard _).trans (Act.keyed_ask _ _)

theorem Act.keyed_failCheck (a : Act) (x : FormInstance) (n : Nat) (m : Mark) : a.Keyed (a.failCheck x n m) :=
  (a.keyed_putForm _).trans (Act.keyed_inhibit _ _)

theorem Act.keyed_move (a : Act) (x : FormInstance) (p : Nat) : a.Keyed (a.move x p) := by
  unfold Act.move; split
  · exact a.keyed_failCheck _ _ _
  · exact a.keyed_putForm _

theorem Act.keyed_switchPage (a : Act) (x : FormInstance) (p : Nat) : a.Keyed (a.switchPage x p) :=
  (a.keyed_putForm _).trans (Act.keyed_askRepaint _)

theorem Act.keyed_advance (a : Act) (x : FormInstance) (f : FieldRec) (off : Nat) :
    a.Keyed (a.advance x f off) := by
  unfold Act.advance; split
  · exact (a.keyed_putForm _).trans (Act.keyed_move _ _ _)
  · exact a.keyed_putForm _

theorem Act.keyed_enterChar (a : Act) (x : FormInstance) (c : Byte) : a.Keyed (a.enterChar x c) := by
  unfold Act.enterChar; split
  · exact a.keyed_inhibit _
  · dsimp only
    split
    · exact a.keyed_failCheck _ _ _
    · split
      · exact a.keyed_inhibit _
      · exact a.keyed_advance _ _ _

theorem Act.keyed_editField (a : Act) (x : FormInstance) (g : List Byte → Nat → List Byte) :
    a.Keyed (a.editField x g) := by
  unfold Act.editField; split
  · exact a.keyed_inhibit _
  · exact a.keyed_putForm _

theorem Act.keyed_backspace (a : Act) (x : FormInstance) : a.Keyed (a.backspace x) := by
  unfold Act.backspace; split
  · split
    · exact a.keyed_editField _ _
    · exact a.keyed_move _ _
  · exact a.keyed_move _ _

theorem Act.keyed_pageKey (a : Act) (x : FormInstance) (p : Option Nat) : a.Keyed (a.pageKey x p) := by
  unfold Act.pageKey; split
  · exact a.keyed_ask _
  · split
    · exact a.keyed_failCheck _ _ _
    · exact a.keyed_switchPage _ _

theorem Act.keyed_reset (a : Act) (x : FormInstance) : a.Keyed (a.reset x) :=
  (a.keyed_putForm _).trans (Act.keyed_setKeyboard _ _)

theorem Act.keyed_wedge (a : Act) (cs : List Byte) : a.Keyed (a.wedge cs) := by
  induction cs generalizing a with
  | nil => exact .refl a
  | cons c cs ih =>
    unfold Act.wedge; split
    · exact (a.keyed_enterChar _ _).trans (ih _)
    · exact .refl a

theorem Act.keyed_toPage (a : Act) (x : FormInstance) (p : Nat) : a.Keyed (a.toPage x p).1 := by
  unfold Act.toPage; split
  · exact .refl a
  · exact (a.keyed_putForm _).trans (Act.keyed_askRepaint _)

theorem Act.keyed_placeScan (a : Act) (x : FormInstance) (f : FieldRec) (t : List Byte) :
    a.Keyed (a.placeScan x f t) :=
  (a.keyed_putForm _).trans (Act.keyed_move _ _ _)

theorem Act.keyed_scanItem (a : Act) (routes : Table RouteDef) (x : FormInstance) (t : List Byte) :
    a.Keyed (a.scanItem routes x t) := by
  unfold Act.scanItem; split
  · unfold Act.route; split
    · exact a.keyed_failCheck _ _ _
    · exact (a.keyed_toPage _ _).trans (Act.keyed_placeScan _ _ _ _)
  · unfold Act.fallback; split
    · exact a.keyed_inhibit _
    · exact a.keyed_wedge _

theorem Act.keyed_failSend (a : Act) (x : FormInstance) (f : FieldRec) (m : Mark) :
    a.Keyed (a.failSend x f m) := by
  unfold Act.failSend; dsimp only; split
  · exact (a.keyed_putForm _).trans (Act.keyed_inhibit _ _)
  · exact ((a.keyed_putForm _).trans (Act.keyed_askRepaint _)).trans (Act.keyed_inhibit _ _)

/-! ## Sends -/

/-- `b` is `a` after an entry was composed: the slot filled, the keyboard WAITING, the timer started with the
timeout when that is not 0, and ENTRY-READY raised (R117, R123, R126). -/
structure Act.Composed (a b : Act) : Prop where
  state : b.station.state = a.station.state
  queue : b.station.queue = a.station.queue
  slot : b.station.slot.isSome = true
  attention : b.station.attention = a.station.attention
  keyboard : b.station.keyboard = .waiting
  timer : b.station.timer =
    if a.station.settings.timeout = 0 then a.station.timer else some a.station.settings.timeout
  settings : b.station.settings = a.station.settings
  notice : b.station.notice = a.station.notice
  line : b.station.line = a.station.line
  raised : b.raised = a.raised ++ [.entryReady]
  form : b.station.form.isSome = true

theorem Act.composed_compose (a : Act) (i : StationId) (k : SendKey) (full : Bool) (x : FormInstance) :
    a.Composed (a.compose i k full x) := by
  by_cases h : a.station.settings.timeout = 0
  · constructor <;> simp [Act.compose, Act.startTimer, h]
  · constructor <;> simp [Act.compose, Act.startTimer, h]

/-- `b` is `a` after a send was refused for an occupied slot: insert mode off, the keyboard INHIBITED PEND,
ENTRY-OVERRUN raised (R118). -/
def Act.Refused (a b : Act) (x : FormInstance) : Prop :=
  b = ((a.putForm { x with insert := false }).inhibit .pend).raise .entryOverrun

theorem Act.send_cases (a : Act) (x : FormInstance) (go : Act → FormInstance → Act) :
    (a.station.slot.isSome = true ∧ a.Refused (a.send x go) x) ∨
    (a.station.slot = none ∧ a.send x go = go a { x with insert := false }) := by
  unfold Act.send
  cases h : a.station.slot <;> simp [Act.Refused]

theorem Act.fullSend_cases (a : Act) (i : StationId) (k : SendKey) (x : FormInstance) :
    a.Keyed (a.fullSend i k x) ∨ a.Composed (a.fullSend i k x) := by
  unfold Act.fullSend; split
  · exact .inr (a.composed_compose ..)
  · exact .inl (a.keyed_failSend ..)

theorem Act.functionSend_cases (a : Act) (i : StationId) (n : Fin 12) (x : FormInstance) :
    a.Keyed (a.functionSend i n x) ∨ a.Composed (a.functionSend i n x) := by
  unfold Act.functionSend; split
  · exact .inr (a.composed_compose ..)
  · exact a.fullSend_cases ..

/-- WHAT TAKING AN ITEM CAN DO: key, refuse a send, or compose an entry into an empty slot. -/
theorem Act.itemAct_cases (l : Library) (i : StationId) (it : Item) (a : Act) (x : FormInstance) :
    a.Keyed (itemAct l i it a x) ∨ (a.station.slot.isSome = true ∧ a.Refused (itemAct l i it a x) x) ∨
      (a.station.slot = none ∧ a.Composed (itemAct l i it a x)) := by
  have send : ∀ go : Act → FormInstance → Act,
      (∀ y, a.Keyed (go a y) ∨ a.Composed (go a y)) →
      a.Keyed (a.send x go) ∨ (a.station.slot.isSome = true ∧ a.Refused (a.send x go) x) ∨
        (a.station.slot = none ∧ a.Composed (a.send x go)) := by
    intro go hgo
    obtain ⟨h, hr⟩ | ⟨h, he⟩ := a.send_cases x go
    · exact .inr (.inl ⟨h, hr⟩)
    · rw [he]
      obtain hk | hc := hgo { x with insert := false }
      · exact .inl hk
      · exact .inr (.inr ⟨h, hc⟩)
  cases it with
  | char c => exact .inl (a.keyed_enterChar _ _)
  | edit k =>
    cases k with
    | insert => exact .inl (a.keyed_putForm _)
    | delete => exact .inl (a.keyed_editField _ _)
    | backspace => exact .inl (a.keyed_backspace _)
    | eraseField => exact .inl (a.keyed_editField _ _)
    | eraseInput => exact .inl (a.keyed_putForm _)
  | move k =>
    cases k with
    | pageNext => exact .inl (a.keyed_pageKey _ _)
    | pagePrior => exact .inl (a.keyed_pageKey _ _)
    | _ => exact .inl (a.keyed_move _ _)
  | reset => exact .inl (a.keyed_reset _)
  | intent k =>
    cases k with
    | enter => exact send (fun a y => a.fullSend i .enter y) fun y => a.fullSend_cases ..
    | function n => exact send (fun a y => a.functionSend i n y) fun y => a.functionSend_cases ..
    | cancel => exact send (fun a y => a.compose i .cancel false y) fun y => .inr (a.composed_compose ..)
    | clear => exact send (fun a y => a.compose i .clear false y.restore) fun y => .inr (a.composed_compose ..)
  | scan t => exact .inl (a.keyed_scanItem _ _ _)

/-- Taking an item in any keyboard state: the item leaves the queue, and then it keys, is refused, or composes;
outside FREE it never composes and never raises (R49, R50). -/
theorem Act.takeItem_cases (l : Library) (i : StationId) (it : Item) (a : Act) (x : FormInstance) :
    a.dropHead.Keyed (a.takeItem it x (itemAct l i it)) ∨
      (a.station.keyboard = .free ∧ a.station.slot.isSome = true ∧
        a.dropHead.Refused (a.takeItem it x (itemAct l i it)) x) ∨
      (a.station.keyboard = .free ∧ a.station.slot = none ∧
        a.dropHead.Composed (a.takeItem it x (itemAct l i it))) := by
  by_cases h : a.station.keyboard = .free
  · rw [Act.takeItem_free it x _ h]
    obtain hk | ⟨hs, hr⟩ | ⟨hs, hc⟩ := Act.itemAct_cases l i it a.dropHead x
    · exact .inl hk
    · exact .inr (.inl ⟨h, hs, hr⟩)
    · exact .inr (.inr ⟨h, hs, hc⟩)
  · left
    unfold Act.takeItem
    split
    · exact absurd (by assumption) h
    all_goals
      split
      · exact Act.keyed_reset _ _
      · exact Act.keyed_ask _ _

end Sys2Proof.Machine
end

