-- ==== Sys2Proof/Laws/Frames.lean ====
section
/-! SUPPORT. What one event at a station leaves, in the terms of the frames: the composer that the event made,
the line's own fields, and everything else kept. -/

namespace Sys2Proof.Machine

/-- The end of an event leaves the composer that the event made. -/
theorem Act.finish_composer (a : Act) (before : Image) : (a.finish before).composer = a.station.composer := rfl

/-- The end of an event paints, and leaves the line's own fields. -/
theorem Act.finish_lineKept (a : Act) (before : Image) : a.station.LineKept (a.finish before) := by
  simp [Station.LineKept, Act.finish]

/-- One event leaves every other station, the library, the host line and the queue of commands. -/
theorem State.event_othersKept (s : State) (i : StationId) (f : Act → Act) (e : EventUnit) :
    s.OthersKept { s.event i f with events := e } i :=
  ⟨fun _ h => s.event_station_ne f h, rfl, rfl, rfl⟩

theorem Station.LineKept.trans {a b c : Station} (h : a.LineKept b) (k : b.LineKept c) : a.LineKept c := by
  obtain ⟨h1, h2, h3, h4, h5, h6, h7⟩ := h
  obtain ⟨k1, k2, k3, k4, k5, k6, k7⟩ := k
  exact ⟨k1.trans h1, k2.trans h2, k3.trans h3, k4.trans h4, k5.trans h5, k6.trans h6, k7.trans h7⟩

theorem Station.LineKept.of_line {a b : Station} (h : b.line = a.line) : a.LineKept b := by
  simp [Station.LineKept, h]

/-- One event leaves its station as the event made it, with what it asked of the line unit. -/
theorem State.event_left (s : State) (i : StationId) (f : Act → Act) (e : EventUnit) :
    s.Left { s.event i f with events := e } i (f (Act.start (s.station i))).station
      (f (Act.start (s.station i))).repaint (f (Act.start (s.station i))).tones := by
  have h : ({ s.event i f with events := e } : State).station i =
      (f (Act.start (s.station i))).finish (s.station i).image := State.event_station_self s i f
  exact ⟨by rw [h]; rfl, by rw [h]; rfl⟩

/-- What one event makes of its station, when it leaves the line's own fields. -/
theorem State.event_made {s : State} {i : StationId} {f : Act → Act} {e : EventUnit}
    (h : (s.station i).LineKept (f (Act.start (s.station i))).station) :
    s.Made { s.event i f with events := e } i (f (Act.start (s.station i))).station
      (f (Act.start (s.station i))).repaint (f (Act.start (s.station i))).tones := by
  refine ⟨s.event_left i f e, ?_, s.event_othersKept i f e⟩
  show (s.station i).LineKept ((s.event i f).station i)
  rw [State.event_station_self]; exact h.trans (Act.finish_lineKept _ _)

/-- An item taken in FREE is one event at its station, which leaves the station that acting on the item makes. -/
theorem State.Takes.made {s : State} {i : StationId} {x : FormInstance} {it : Item} {q : List Item}
    (h : s.Takes i x it q) {want : Item → Bool} (hw : want it = true) (act : Item → Act → FormInstance → Act)
    (hl : (act it (Act.start { s.station i with queue := q }) x).station.line = (s.station i).line) :
    ∃ t, s.take i want act = .next t ∧
      t.events = ((act it (Act.start { s.station i with queue := q }) x).raised.foldl
        (fun e k => e.raiseStation i k) s.events).drive ∧
      s.Made t i (act it (Act.start { s.station i with queue := q }) x).station
        (act it (Act.start { s.station i with queue := q }) x).repaint
        (act it (Act.start { s.station i with queue := q }) x).tones := by
  obtain ⟨h1, h2, h3, h4, h5⟩ := h
  have head : (s.station i).head? = some (it, x) := Station.head?_of h1 h2 h3 (by rw [h4]; rfl) h5
  have e : (Act.start (s.station i)).takeItem it x (act it) = act it (Act.start { s.station i with queue := q }) x := by
    rw [Act.takeItem_free it x _ h4]
    simp [Act.dropHead, Act.start, h3]
  refine ⟨_, State.take_some head hw, ?_, ?_⟩
  · show EventUnit.drive (s.event i _).events = _
    rw [State.event_events, e]
  · rw [← e]; exact State.event_made (Station.LineKept.of_line (by rw [e, hl]))

/-- The same for an item whose acting raises nothing. -/
theorem State.Takes.quiet {s : State} {i : StationId} {x : FormInstance} {it : Item} {q : List Item}
    (h : s.Takes i x it q) {want : Item → Bool} (hw : want it = true) (act : Item → Act → FormInstance → Act)
    (hk : (Act.start { s.station i with queue := q }).Keyed (act it (Act.start { s.station i with queue := q }) x)) :
    ∃ t, s.take i want act = .next t ∧ s.EventsQuiet t ∧
      s.Made t i (act it (Act.start { s.station i with queue := q }) x).station
        (act it (Act.start { s.station i with queue := q }) x).repaint
        (act it (Act.start { s.station i with queue := q }) x).tones := by
  obtain ⟨t, h1, h2, h3⟩ := h.made hw act hk.line
  exact ⟨t, h1, by rw [hk.raised] at h2; exact h2, h3⟩

/-- A move in FREE leaves the instance and the keyboard that the exit check gives, and asks its tone (R59). -/
theorem Act.move_eq (a : Act) (x : FormInstance) (dest : Nat) (free : a.station.keyboard = .free) :
    a.move x dest =
      { a with
        station := { a.station with form := some (x.guardedTo dest), keyboard := x.guardedKeyboard dest }
        tones := a.tones ++ x.guardedTones dest } := by
  unfold Act.move FormInstance.guardedTo FormInstance.guardedKeyboard FormInstance.guardedTones
  split <;> simp_all [Act.failCheck, Act.inhibit, Act.ask, Act.setKeyboard, Act.putForm]

/-- An entry composed in an event that has raised nothing (R123, R124): it asks neither a tone nor a repaint. -/
theorem Act.compose_station (a : Act) (i : StationId) (k : SendKey) (full : Bool) (x : FormInstance) :
    (a.compose i k full x).station =
        { a.station with
          form := some x
          keyboard := .waiting
          slot := some (composeEntry i (.key k) full x)
          timer := if a.station.settings.timeout = 0 then a.station.timer else some a.station.settings.timeout } ∧
      (a.compose i k full x).repaint = a.repaint ∧ (a.compose i k full x).tones = a.tones := by
  by_cases h : a.station.settings.timeout = 0 <;>
    simp [Act.compose, Act.startTimer, h, Act.fillSlot, Act.raise, Act.putForm, Act.setKeyboard]

end Sys2Proof.Machine
end

