-- ==== Sys2Proof/Laws/Orders.lean ====
section
/-! SUPPORT. What an applied order and an accepted message can make of a station: each case with the event it
makes written out. -/

namespace Sys2Proof.Machine

/-! ## Orders -/

/-- The event that an applied order makes at station `i`, which stands as `st`. -/
inductive OrderMove (l : Library) (i : StationId) (flags : BitVec 8) (st : Station) : Act → Prop
  | shown {number : Nat} {d : ActiveForm} (hold : Bool) (hs : st.state ≠ .suspended)
      (hd : lookupKey number l.forms = some d) :
      OrderMove l i flags st
        ((Act.start st).showForm (newInstance number l.generation d l.classes st.line.up) hold)
  | wrote {w : WriteOrder} {x : FormInstance} (valid : writeValid w = true) (hs : st.state ≠ .noForm)
      (hx : st.form = some x) (hp : ∀ p, w.page = some p → p ≤ x.defn.pages)
      (hc : badCursor w x = false) :
      OrderMove l i flags st
        ((Act.start st).writeRest w (writeFields w st.settings.policy st.keyboard x).form)
  | noticed {x : FormInstance} (text : List Byte) (tones : List Tone) (hs : st.state ≠ .noForm)
      (hx : st.form = some x) :
      OrderMove l i flags st ⟨{ st with notice := padCut Config.noticeText text }, tones, false, []⟩
  | held {x : FormInstance} (hs : st.state ≠ .noForm) (hx : st.form = some x) :
      OrderMove l i flags st
        ⟨{ st with keyboard := .held, timer := if st.keyboard = .waiting then none else st.timer }, [], false, []⟩
  | released {x : FormInstance} (hs : st.state ≠ .noForm) (hx : st.form = some x) :
      OrderMove l i flags st
        ⟨{ st with keyboard := if st.keyboard = .held then .free else st.keyboard }, [], false, []⟩
  | turned {x : FormInstance} {p : Nat} (hs : st.state ≠ .noForm) (hx : st.form = some x) (h1 : 1 ≤ p)
      (hp : p ≤ x.defn.pages) :
      OrderMove l i flags st
        ⟨{ st with form := some ((Act.start st).hostTurn x p) }, [], decide (st.state = .active), []⟩
  | reread {x : FormInstance} (hs : st.state = .active) (hx : st.form = some x) (he : st.slot = none) :
      OrderMove l i flags st
        ⟨{ st with slot := some (composeEntry i .reread true x) }, [], false, [.entryReady]⟩
  | set (c : SettingsChange) (hs : st.state ≠ .active) :
      OrderMove l i flags st
        ⟨{ st with
            settings := st.settings.change c,
            line := match c.scanner with | some on => st.line.resetScanner on | none => st.line }, [], false, []⟩
  | reset : OrderMove l i flags st (Act.start st).stationReset
  | suspended (hs : st.state ≠ .suspended) (he : st.slot = none) (ha : st.attention = false)
      (hf : flags = 0#8) : OrderMove l i flags st (Act.start st).suspend
  | resumed (hs : st.state = .suspended) : OrderMove l i flags st (Act.start st).resume
  | unchanged : OrderMove l i flags st (Act.start st)

theorem withForm_applied {st : Station} {k : FormInstance → OrderResult} {a : Act} {late : Bool}
    {sk : List (Nat × SkipReason)} {cut : List Nat}
    (h : withForm (Act.start st) k = .applied a late sk cut) :
    st.state ≠ .noForm ∧ ∃ x, st.form = some x ∧ k x = .applied a late sk cut := by
  unfold withForm at h
  split at h
  · cases h
  · cases h
  · next hx hs => exact ⟨fun e => hs e, _, hx, h⟩

/-- EVERY APPLIED ORDER: the event it makes. -/
theorem order_cases {l : Library} {i : StationId} {flags : BitVec 8} {st : Station} {r : Request}
    {f : Act → OrderResult} {a : Act} {late : Bool} {sk : List (Nat × SkipReason)} {cut : List Nat}
    (valid : requestValid r = true) (h : orderOf l i flags r = some f)
    (ha : f (Act.start st) = .applied a late sk cut) : OrderMove l i flags st a := by
  cases r <;> simp only [orderOf, Option.some.injEq, reduceCtorEq] at h <;> subst h
  case showForm set number hold =>
    unfold showOrder at ha
    split at ha
    · cases ha
    all_goals
      next hs =>
      split at ha
      · cases ha
      · next d hd =>
        cases ha
        exact .shown hold (by simp only [Act.start_station] at hs; rw [hs]; decide) hd
  case write set w =>
    obtain ⟨hs, x, hx, hk⟩ := withForm_applied ha
    split at hk
    · cases hk
    · next hp =>
      split at hk
      · cases hk
      · next hc =>
        cases hk
        refine .wrote valid hs hx ?_ (by simpa using hc)
        intro p hpp
        simpa [hpp] using hp
  case notice set tone text =>
    obtain ⟨hs, x, hx, hk⟩ := withForm_applied ha
    dsimp only at hk
    split at hk
    · split at hk <;> cases hk <;> exact .noticed text _ hs hx
    · cases hk; exact .noticed text _ hs hx
  case hold set =>
    obtain ⟨hs, x, hx, hk⟩ := withForm_applied ha
    have hm : OrderMove l i flags st _ := .held hs hx
    split at hk
    · next hw => cases hk; rw [if_pos (show st.keyboard = .waiting from hw)] at hm; exact hm
    · next hw => cases hk; rw [if_neg (show ¬st.keyboard = .waiting from hw)] at hm; exact hm
  case release set =>
    obtain ⟨hs, x, hx, hk⟩ := withForm_applied ha
    have hm : OrderMove l i flags st _ := .released hs hx
    cases hk
    split
    · next hw => rw [if_pos (show st.keyboard = .held from hw)] at hm; exact hm
    · next hw => rw [if_neg (show ¬st.keyboard = .held from hw)] at hm; exact hm
  case page set p =>
    obtain ⟨hs, x, hx, hk⟩ := withForm_applied ha
    have h1 : 1 ≤ p := by
      have : inRange 1 255 p = true := valid
      simp [inRange] at this
      exact this.1
    split at hk
    · cases hk
    · next hp =>
      have hm : OrderMove l i flags st _ := .turned hs hx h1 (Nat.le_of_not_lt hp)
      cases hk
      by_cases hact : st.state = .active
      · simpa [hact, Act.askRepaintIfActive, Act.start, Act.askRepaint, Act.putForm, Act.hostTurn] using hm
      · simpa [hact, Act.askRepaintIfActive, Act.start, Act.putForm, Act.hostTurn] using hm
  case reread set =>
    unfold rereadOrder at ha
    split at ha
    · cases ha
    · cases ha
    · cases ha
    · next hs hx =>
      split at ha
      · cases ha
      · next he =>
        cases ha
        exact .reread hs hx (by simpa using he)
  case stationSet set c =>
    unfold stationSetOrder at ha
    split at ha
    · cases ha
    all_goals
      next hs =>
      cases ha
      exact .set c (by simp only [Act.start_station] at hs; rw [hs]; decide)
  case stationReset set => cases ha; exact .reset
  case suspend set =>
    unfold suspendOrder at ha
    split at ha
    · cases ha; exact .unchanged
    all_goals
      next hs =>
      split at ha
      · cases ha
      · next hp =>
        cases ha
        simp only [Act.start_station, Bool.or_eq_true, not_or, Bool.not_eq_true, bne_eq_false_iff_eq] at hp hs
        exact .suspended (by rw [hs]; decide) (by simpa using hp.1.1) (by simpa using hp.1.2) hp.2
  case resume set =>
    unfold resumeOrder at ha
    split at ha
    · next hs => cases ha; exact .resumed hs
    all_goals cases ha; exact .unchanged

/-! ## Arrivals -/

/-- The scanner error counter and the scanner state after a message: unchanged, or lowered by a good SCAN, or
raised by a bad one (R104). -/
inductive ScanMove (st : Station) : Nat → ScannerState → Prop
  | kept : ScanMove st st.line.scanErrors st.line.scanner
  | good (hc : st.countsScans = true) : ScanMove st (st.line.scanErrors - 1) st.line.scanner
  | bad (hc : st.countsScans = true) (h : st.line.scanErrors + 1 < Config.scanErrorLimit) :
      ScanMove st (st.line.scanErrors + 1) st.line.scanner
  | last (hc : st.countsScans = true) (h : Config.scanErrorLimit ≤ st.line.scanErrors + 1) :
      ScanMove st Config.scanErrorLimit .suspended

/-- What an accepted message can make of a station. -/
structure Act.Arrived (st : Station) (a : Act) : Prop where
  state : a.station.state = st.state
  form : a.station.form = st.form
  keyboard : a.station.keyboard = st.keyboard
  slot : a.station.slot = st.slot
  timer : a.station.timer = st.timer
  settings : a.station.settings = st.settings
  notice : a.station.notice = st.notice
  repaint : a.repaint = false
  queue : a.station.queue = st.queue ∨
    (st.state = .active ∧ st.queue.length < Config.keyQueue ∧ ∃ it, a.station.queue = st.queue ++ [it])
  attention : a.station.attention = st.attention ∨ (st.state = .active ∧ a.station.attention = true)
  line : ∃ n sc, a.station.line = { st.hear.line with scanErrors := n, scanner := sc } ∧ ScanMove st n sc

@[simp] theorem Station.hear_state (st : Station) : st.hear.state = st.state := rfl
@[simp] theorem Station.hear_scanErrors (st : Station) : st.hear.line.scanErrors = st.line.scanErrors := by
  unfold Station.hear; dsimp only; split <;> simp [LineUnit.hear]
@[simp] theorem Station.hear_scanner (st : Station) : st.hear.line.scanner = st.line.scanner := by
  unfold Station.hear; dsimp only; split <;> simp [LineUnit.hear]
@[simp] theorem Station.hear_countsScans (st : Station) : st.hear.countsScans = st.countsScans := by
  unfold Station.countsScans; simp

theorem Station.hear_kept (st : Station) :
    st.hear =
      { st.hear with line := { st.hear.line with scanErrors := st.line.scanErrors, scanner := st.line.scanner } } := by
  have h1 := st.hear_scanErrors
  have h2 := st.hear_scanner
  generalize st.hear = u at h1 h2 ⊢
  rw [← h1, ← h2]

/-- A message heard on an UP line restarts the silence timer alone (R157). -/
theorem Station.hear_up {st : Station} (h : st.line.up = true) : st.hear = { st with line := st.line.hear } := by
  simp [Station.hear, h]

/-- A message heard on a DOWN line brings it UP, and ERASE-SCREEN starts (R159, R164). -/
theorem Station.hear_down {st : Station} (h : st.line.up = false) (sound : st.line.DownSound) :
    st.hear =
      { st with
        line := { st.line.hear with
          repaintAll := false, repaint := some 1, inFlight := some .erase, lastCursor := some 0 } } := by
  obtain ⟨-, h1, h2, h3, h4, -⟩ : st.line.silence = none ∧ st.line.inFlight = none ∧ st.line.repaint = none ∧
      st.line.repaintAll = true ∧ st.line.tone = none ∧ st.line.lastCursor = none := by
    simpa [LineUnit.DownSound, h] using sound
  simp [Station.hear, h, LineUnit.engine, LineUnit.hear, h1, LineUnit.startNext, h4, h2, LineUnit.startOther, h3]

@[simp] theorem Act.hear_station (a : Act) : a.hear.station = a.station.hear := by
  unfold Act.hear; dsimp only; split <;> rfl

theorem Act.hear_repaint (st : Station) : (Act.start st).hear.repaint = false := by
  unfold Act.hear; dsimp only; split <;> rfl

/-- An arriving item joins the queue with nothing else changed, or nothing is changed at the station (R48). -/
theorem Act.offer_cases (a : Act) (it : Item) :
    (a.offer it).repaint = a.repaint ∧
    ((a.offer it).station = a.station ∨
      (a.station.state = .active ∧ a.station.queue.length < Config.keyQueue ∧
        (a.offer it).station = { a.station with queue := a.station.queue ++ [it] })) := by
  unfold Act.offer
  split
  · exact ⟨rfl, .inl rfl⟩
  · exact ⟨rfl, .inl rfl⟩
  · next hs =>
    split
    · exact ⟨rfl, .inl rfl⟩
    · split
      · next hl => exact ⟨rfl, .inr ⟨hs, hl, rfl⟩⟩
      · exact ⟨rfl, .inl rfl⟩

/-- An item offered after the line unit has taken its message. -/
theorem Act.Arrived.offer {st : Station} {a : Act} {n : Nat} {sc : ScannerState}
    (hst : a.station = { st.hear with line := { st.hear.line with scanErrors := n, scanner := sc } })
    (hr : a.repaint = false) (hm : ScanMove st n sc) (it : Item) : Act.Arrived st (a.offer it) := by
  obtain ⟨h1, h2 | ⟨hs, hl, h2⟩⟩ := a.offer_cases it
  · rw [hst] at h2
    exact ⟨by rw [h2]; rfl, by rw [h2]; rfl, by rw [h2]; rfl, by rw [h2]; rfl, by rw [h2]; rfl, by rw [h2]; rfl,
      by rw [h2]; rfl, h1.trans hr, .inl (by rw [h2]; rfl), .inl (by rw [h2]; rfl), n, sc, by rw [h2], hm⟩
  · rw [hst] at hs hl h2
    exact ⟨by rw [h2]; rfl, by rw [h2]; rfl, by rw [h2]; rfl, by rw [h2]; rfl, by rw [h2]; rfl, by rw [h2]; rfl,
      by rw [h2]; rfl, h1.trans hr, .inr ⟨hs, hl, it, by rw [h2]; rfl⟩, .inl (by rw [h2]; rfl), n, sc, by rw [h2], hm⟩

/-- A message that leaves the composer alone. -/
theorem Act.Arrived.quiet {st : Station} {a : Act} {n : Nat} {sc : ScannerState}
    (hst : a.station = { st.hear with line := { st.hear.line with scanErrors := n, scanner := sc } })
    (hr : a.repaint = false) (hm : ScanMove st n sc) : Act.Arrived st a :=
  ⟨by rw [hst]; rfl, by rw [hst]; rfl, by rw [hst]; rfl, by rw [hst]; rfl, by rw [hst]; rfl, by rw [hst]; rfl,
    by rw [hst]; rfl, hr, .inl (by rw [hst]; rfl), .inl (by rw [hst]; rfl), n, sc, by rw [hst], hm⟩

/-- EVERY ACCEPTED MESSAGE: what it can make of a station (R104, R129, R157, R159, R160). -/
theorem Act.arrived (st : Station) (u : Upstream) : Act.Arrived st ((Act.start st).hear.handOn u) := by
  have hs : (Act.start st).hear.station = st.hear := Act.hear_station _
  have hst := hs.trans st.hear_kept
  have hr := Act.hear_repaint st
  have hset : ∀ n sc, ((Act.start st).hear.setScanner n sc).station =
      { st.hear with line := { st.hear.line with scanErrors := n, scanner := sc } } := by
    intro n sc; rw [Act.setScanner_station, hs]
  have hn : (Act.start st).hear.station.line.scanErrors = st.line.scanErrors := by rw [hs]; simp
  have hsc : (Act.start st).hear.station.line.scanner = st.line.scanner := by rw [hs]; simp
  have hcs : (Act.start st).hear.station.countsScans = st.countsScans := by rw [hs]; simp
  cases u with
  | key it => exact .offer hst hr .kept it
  | alive => exact .quiet hst hr .kept
  | scan good text =>
    show Act.Arrived st ((Act.start st).hear.scanMessage good text)
    unfold Act.scanMessage
    split
    · next hc =>
      rw [hcs] at hc
      split
      · unfold Act.goodScan
        rw [hn, hsc]
        exact .offer (hset (st.line.scanErrors - 1) st.line.scanner) hr (.good hc) _
      · unfold Act.badScan
        rw [hn, hsc]
        split
        · next hlt => exact .quiet (hset (st.line.scanErrors + 1) st.line.scanner) hr (.bad hc hlt)
        · next hlt => exact .quiet (hset Config.scanErrorLimit .suspended) hr (.last hc (Nat.le_of_not_lt hlt))
    · exact .quiet hst hr .kept
  | attn =>
    show Act.Arrived st (Act.start st).hear.attention
    unfold Act.attention
    split
    · next h =>
      rw [hs] at h
      have e := congrArg Station.line st.hear_kept
      exact ⟨by rw [hs]; rfl, by rw [hs]; rfl, by rw [hs]; rfl, by rw [hs]; rfl, by rw [hs]; rfl, by rw [hs]; rfl,
        by rw [hs]; rfl, hr, .inl (by rw [hs]; rfl), .inr ⟨h.1, rfl⟩, st.line.scanErrors, st.line.scanner,
        by rw [hs]; exact e, .kept⟩
    · exact .quiet hst hr .kept

end Sys2Proof.Machine
end

