-- ==== Sys2Proof/Laws/Instances.lean ====
section
/-! SUPPORT. The form instance: what changes of its field records leave alone. -/

namespace Sys2Proof.Machine

@[simp] theorem FormInstance.modField_number (x : FormInstance) (n : Nat) (g : FieldRec → FieldRec) :
    (x.modField n g).number = x.number := rfl
@[simp] theorem FormInstance.modFields_number (x : FormInstance) (w : FieldRec → Bool) (g : FieldRec → FieldRec) :
    (x.modFields w g).number = x.number := rfl
@[simp] theorem FormInstance.mark_number (x : FormInstance) (n : Nat) (m : Mark) : (x.mark n m).number = x.number := rfl
@[simp] theorem FormInstance.markFailing_number (x : FormInstance) : x.markFailing.number = x.number := rfl
@[simp] theorem FormInstance.runRule_number (x : FormInstance) (r : Rule) : (x.runRule r).number = x.number := rfl
@[simp] theorem FormInstance.runRules_number (ns : List Nat) (x : FormInstance) : (x.runRules ns).number = x.number := by
  induction ns generalizing x with
  | nil => rfl
  | cons n ns ih => unfold FormInstance.runRules; split <;> simp [ih]
@[simp] theorem FormInstance.recompute_number (x : FormInstance) (ns : List Nat) : (x.recompute ns).number = x.number := by
  simp [FormInstance.recompute]
@[simp] theorem FormInstance.recomputeAll_number (x : FormInstance) : x.recomputeAll.number = x.number := by
  simp [FormInstance.recomputeAll]
@[simp] theorem FormInstance.edit_number (x : FormInstance) (n : Nat) (t : List Byte) (g : Option Mark → Option Mark) :
    (x.edit n t g).number = x.number := by
  simp [FormInstance.edit]
@[simp] theorem FormInstance.eraseInputs_number (x : FormInstance) (w : FieldRec → Bool) :
    (x.eraseInputs w).number = x.number := by
  simp [FormInstance.eraseInputs]
@[simp] theorem Written.update_number (p : Policy) (k : Keyboard) (w : Written) (u : Update) :
    (w.update p k u).form.number = w.form.number := by
  unfold Written.update; split <;> simp
@[simp] theorem Written.updates_number (p : Policy) (k : Keyboard) (us : List Update) (w : Written) :
    (us.foldl (Written.update p k) w).form.number = w.form.number := by
  induction us generalizing w with
  | nil => rfl
  | cons u us ih => simp [ih]
@[simp] theorem writeFields_number (w : WriteOrder) (p : Policy) (k : Keyboard) (x : FormInstance) :
    (writeFields w p k x).form.number = x.number := by
  unfold writeFields; dsimp only; repeat' split
  all_goals simp

@[simp] theorem FormInstance.modField_generation (x : FormInstance) (n : Nat) (g : FieldRec → FieldRec) :
    (x.modField n g).generation = x.generation := rfl
@[simp] theorem FormInstance.modFields_generation (x : FormInstance) (w : FieldRec → Bool) (g : FieldRec → FieldRec) :
    (x.modFields w g).generation = x.generation := rfl
@[simp] theorem FormInstance.mark_generation (x : FormInstance) (n : Nat) (m : Mark) : (x.mark n m).generation = x.generation := rfl
@[simp] theorem FormInstance.markFailing_generation (x : FormInstance) : x.markFailing.generation = x.generation := rfl
@[simp] theorem FormInstance.runRule_generation (x : FormInstance) (r : Rule) : (x.runRule r).generation = x.generation := rfl
@[simp] theorem FormInstance.runRules_generation (ns : List Nat) (x : FormInstance) : (x.runRules ns).generation = x.generation := by
  induction ns generalizing x with
  | nil => rfl
  | cons n ns ih => unfold FormInstance.runRules; split <;> simp [ih]
@[simp] theorem FormInstance.recompute_generation (x : FormInstance) (ns : List Nat) : (x.recompute ns).generation = x.generation := by
  simp [FormInstance.recompute]
@[simp] theorem FormInstance.recomputeAll_generation (x : FormInstance) : x.recomputeAll.generation = x.generation := by
  simp [FormInstance.recomputeAll]
@[simp] theorem FormInstance.edit_generation (x : FormInstance) (n : Nat) (t : List Byte) (g : Option Mark → Option Mark) :
    (x.edit n t g).generation = x.generation := by
  simp [FormInstance.edit]
@[simp] theorem FormInstance.eraseInputs_generation (x : FormInstance) (w : FieldRec → Bool) :
    (x.eraseInputs w).generation = x.generation := by
  simp [FormInstance.eraseInputs]
@[simp] theorem Written.update_generation (p : Policy) (k : Keyboard) (w : Written) (u : Update) :
    (w.update p k u).form.generation = w.form.generation := by
  unfold Written.update; split <;> simp
@[simp] theorem Written.updates_generation (p : Policy) (k : Keyboard) (us : List Update) (w : Written) :
    (us.foldl (Written.update p k) w).form.generation = w.form.generation := by
  induction us generalizing w with
  | nil => rfl
  | cons u us ih => simp [ih]
@[simp] theorem writeFields_generation (w : WriteOrder) (p : Policy) (k : Keyboard) (x : FormInstance) :
    (writeFields w p k x).form.generation = x.generation := by
  unfold writeFields; dsimp only; repeat' split
  all_goals simp

@[simp] theorem FormInstance.modField_defn (x : FormInstance) (n : Nat) (g : FieldRec → FieldRec) :
    (x.modField n g).defn = x.defn := rfl
@[simp] theorem FormInstance.modFields_defn (x : FormInstance) (w : FieldRec → Bool) (g : FieldRec → FieldRec) :
    (x.modFields w g).defn = x.defn := rfl
@[simp] theorem FormInstance.mark_defn (x : FormInstance) (n : Nat) (m : Mark) : (x.mark n m).defn = x.defn := rfl
@[simp] theorem FormInstance.markFailing_defn (x : FormInstance) : x.markFailing.defn = x.defn := rfl
@[simp] theorem FormInstance.runRule_defn (x : FormInstance) (r : Rule) : (x.runRule r).defn = x.defn := rfl
@[simp] theorem FormInstance.runRules_defn (ns : List Nat) (x : FormInstance) : (x.runRules ns).defn = x.defn := by
  induction ns generalizing x with
  | nil => rfl
  | cons n ns ih => unfold FormInstance.runRules; split <;> simp [ih]
@[simp] theorem FormInstance.recompute_defn (x : FormInstance) (ns : List Nat) : (x.recompute ns).defn = x.defn := by
  simp [FormInstance.recompute]
@[simp] theorem FormInstance.recomputeAll_defn (x : FormInstance) : x.recomputeAll.defn = x.defn := by
  simp [FormInstance.recomputeAll]
@[simp] theorem FormInstance.edit_defn (x : FormInstance) (n : Nat) (t : List Byte) (g : Option Mark → Option Mark) :
    (x.edit n t g).defn = x.defn := by
  simp [FormInstance.edit]
@[simp] theorem FormInstance.eraseInputs_defn (x : FormInstance) (w : FieldRec → Bool) :
    (x.eraseInputs w).defn = x.defn := by
  simp [FormInstance.eraseInputs]
@[simp] theorem Written.update_defn (p : Policy) (k : Keyboard) (w : Written) (u : Update) :
    (w.update p k u).form.defn = w.form.defn := by
  unfold Written.update; split <;> simp
@[simp] theorem Written.updates_defn (p : Policy) (k : Keyboard) (us : List Update) (w : Written) :
    (us.foldl (Written.update p k) w).form.defn = w.form.defn := by
  induction us generalizing w with
  | nil => rfl
  | cons u us ih => simp [ih]
@[simp] theorem writeFields_defn (w : WriteOrder) (p : Policy) (k : Keyboard) (x : FormInstance) :
    (writeFields w p k x).form.defn = x.defn := by
  unfold writeFields; dsimp only; repeat' split
  all_goals simp

@[simp] theorem FormInstance.modField_order (x : FormInstance) (n : Nat) (g : FieldRec → FieldRec) :
    (x.modField n g).order = x.order := rfl
@[simp] theorem FormInstance.modFields_order (x : FormInstance) (w : FieldRec → Bool) (g : FieldRec → FieldRec) :
    (x.modFields w g).order = x.order := rfl
@[simp] theorem FormInstance.mark_order (x : FormInstance) (n : Nat) (m : Mark) : (x.mark n m).order = x.order := rfl
@[simp] theorem FormInstance.markFailing_order (x : FormInstance) : x.markFailing.order = x.order := rfl
@[simp] theorem FormInstance.runRule_order (x : FormInstance) (r : Rule) : (x.runRule r).order = x.order := rfl
@[simp] theorem FormInstance.runRules_order (ns : List Nat) (x : FormInstance) : (x.runRules ns).order = x.order := by
  induction ns generalizing x with
  | nil => rfl
  | cons n ns ih => unfold FormInstance.runRules; split <;> simp [ih]
@[simp] theorem FormInstance.recompute_order (x : FormInstance) (ns : List Nat) : (x.recompute ns).order = x.order := by
  simp [FormInstance.recompute]
@[simp] theorem FormInstance.recomputeAll_order (x : FormInstance) : x.recomputeAll.order = x.order := by
  simp [FormInstance.recomputeAll]
@[simp] theorem FormInstance.edit_order (x : FormInstance) (n : Nat) (t : List Byte) (g : Option Mark → Option Mark) :
    (x.edit n t g).order = x.order := by
  simp [FormInstance.edit]
@[simp] theorem FormInstance.eraseInputs_order (x : FormInstance) (w : FieldRec → Bool) :
    (x.eraseInputs w).order = x.order := by
  simp [FormInstance.eraseInputs]
@[simp] theorem Written.update_order (p : Policy) (k : Keyboard) (w : Written) (u : Update) :
    (w.update p k u).form.order = w.form.order := by
  unfold Written.update; split <;> simp
@[simp] theorem Written.updates_order (p : Policy) (k : Keyboard) (us : List Update) (w : Written) :
    (us.foldl (Written.update p k) w).form.order = w.form.order := by
  induction us generalizing w with
  | nil => rfl
  | cons u us ih => simp [ih]
@[simp] theorem writeFields_order (w : WriteOrder) (p : Policy) (k : Keyboard) (x : FormInstance) :
    (writeFields w p k x).form.order = x.order := by
  unfold writeFields; dsimp only; repeat' split
  all_goals simp

@[simp] theorem FormInstance.modField_classes (x : FormInstance) (n : Nat) (g : FieldRec → FieldRec) :
    (x.modField n g).classes = x.classes := rfl
@[simp] theorem FormInstance.modFields_classes (x : FormInstance) (w : FieldRec → Bool) (g : FieldRec → FieldRec) :
    (x.modFields w g).classes = x.classes := rfl
@[simp] theorem FormInstance.mark_classes (x : FormInstance) (n : Nat) (m : Mark) : (x.mark n m).classes = x.classes := rfl
@[simp] theorem FormInstance.markFailing_classes (x : FormInstance) : x.markFailing.classes = x.classes := rfl
@[simp] theorem FormInstance.runRule_classes (x : FormInstance) (r : Rule) : (x.runRule r).classes = x.classes := rfl
@[simp] theorem FormInstance.runRules_classes (ns : List Nat) (x : FormInstance) : (x.runRules ns).classes = x.classes := by
  induction ns generalizing x with
  | nil => rfl
  | cons n ns ih => unfold FormInstance.runRules; split <;> simp [ih]
@[simp] theorem FormInstance.recompute_classes (x : FormInstance) (ns : List Nat) : (x.recompute ns).classes = x.classes := by
  simp [FormInstance.recompute]
@[simp] theorem FormInstance.recomputeAll_classes (x : FormInstance) : x.recomputeAll.classes = x.classes := by
  simp [FormInstance.recomputeAll]
@[simp] theorem FormInstance.edit_classes (x : FormInstance) (n : Nat) (t : List Byte) (g : Option Mark → Option Mark) :
    (x.edit n t g).classes = x.classes := by
  simp [FormInstance.edit]
@[simp] theorem FormInstance.eraseInputs_classes (x : FormInstance) (w : FieldRec → Bool) :
    (x.eraseInputs w).classes = x.classes := by
  simp [FormInstance.eraseInputs]
@[simp] theorem Written.update_classes (p : Policy) (k : Keyboard) (w : Written) (u : Update) :
    (w.update p k u).form.classes = w.form.classes := by
  unfold Written.update; split <;> simp
@[simp] theorem Written.updates_classes (p : Policy) (k : Keyboard) (us : List Update) (w : Written) :
    (us.foldl (Written.update p k) w).form.classes = w.form.classes := by
  induction us generalizing w with
  | nil => rfl
  | cons u us ih => simp [ih]
@[simp] theorem writeFields_classes (w : WriteOrder) (p : Policy) (k : Keyboard) (x : FormInstance) :
    (writeFields w p k x).form.classes = x.classes := by
  unfold writeFields; dsimp only; repeat' split
  all_goals simp

@[simp] theorem FormInstance.modField_page (x : FormInstance) (n : Nat) (g : FieldRec → FieldRec) :
    (x.modField n g).page = x.page := rfl
@[simp] theorem FormInstance.modFields_page (x : FormInstance) (w : FieldRec → Bool) (g : FieldRec → FieldRec) :
    (x.modFields w g).page = x.page := rfl
@[simp] theorem FormInstance.mark_page (x : FormInstance) (n : Nat) (m : Mark) : (x.mark n m).page = x.page := rfl
@[simp] theorem FormInstance.markFailing_page (x : FormInstance) : x.markFailing.page = x.page := rfl
@[simp] theorem FormInstance.runRule_page (x : FormInstance) (r : Rule) : (x.runRule r).page = x.page := rfl
@[simp] theorem FormInstance.runRules_page (ns : List Nat) (x : FormInstance) : (x.runRules ns).page = x.page := by
  induction ns generalizing x with
  | nil => rfl
  | cons n ns ih => unfold FormInstance.runRules; split <;> simp [ih]
@[simp] theorem FormInstance.recompute_page (x : FormInstance) (ns : List Nat) : (x.recompute ns).page = x.page := by
  simp [FormInstance.recompute]
@[simp] theorem FormInstance.recomputeAll_page (x : FormInstance) : x.recomputeAll.page = x.page := by
  simp [FormInstance.recomputeAll]
@[simp] theorem FormInstance.edit_page (x : FormInstance) (n : Nat) (t : List Byte) (g : Option Mark → Option Mark) :
    (x.edit n t g).page = x.page := by
  simp [FormInstance.edit]
@[simp] theorem FormInstance.eraseInputs_page (x : FormInstance) (w : FieldRec → Bool) :
    (x.eraseInputs w).page = x.page := by
  simp [FormInstance.eraseInputs]
@[simp] theorem Written.update_page (p : Policy) (k : Keyboard) (w : Written) (u : Update) :
    (w.update p k u).form.page = w.form.page := by
  unfold Written.update; split <;> simp
@[simp] theorem Written.updates_page (p : Policy) (k : Keyboard) (us : List Update) (w : Written) :
    (us.foldl (Written.update p k) w).form.page = w.form.page := by
  induction us generalizing w with
  | nil => rfl
  | cons u us ih => simp [ih]
@[simp] theorem writeFields_page (w : WriteOrder) (p : Policy) (k : Keyboard) (x : FormInstance) :
    (writeFields w p k x).form.page = x.page := by
  unfold writeFields; dsimp only; repeat' split
  all_goals simp

@[simp] theorem FormInstance.modField_visited (x : FormInstance) (n : Nat) (g : FieldRec → FieldRec) :
    (x.modField n g).visited = x.visited := rfl
@[simp] theorem FormInstance.modFields_visited (x : FormInstance) (w : FieldRec → Bool) (g : FieldRec → FieldRec) :
    (x.modFields w g).visited = x.visited := rfl
@[simp] theorem FormInstance.mark_visited (x : FormInstance) (n : Nat) (m : Mark) : (x.mark n m).visited = x.visited := rfl
@[simp] theorem FormInstance.markFailing_visited (x : FormInstance) : x.markFailing.visited = x.visited := rfl
@[simp] theorem FormInstance.runRule_visited (x : FormInstance) (r : Rule) : (x.runRule r).visited = x.visited := rfl
@[simp] theorem FormInstance.runRules_visited (ns : List Nat) (x : FormInstance) : (x.runRules ns).visited = x.visited := by
  induction ns generalizing x with
  | nil => rfl
  | cons n ns ih => unfold FormInstance.runRules; split <;> simp [ih]
@[simp] theorem FormInstance.recompute_visited (x : FormInstance) (ns : List Nat) : (x.recompute ns).visited = x.visited := by
  simp [FormInstance.recompute]
@[simp] theorem FormInstance.recomputeAll_visited (x : FormInstance) : x.recomputeAll.visited = x.visited := by
  simp [FormInstance.recomputeAll]
@[simp] theorem FormInstance.edit_visited (x : FormInstance) (n : Nat) (t : List Byte) (g : Option Mark → Option Mark) :
    (x.edit n t g).visited = x.visited := by
  simp [FormInstance.edit]
@[simp] theorem FormInstance.eraseInputs_visited (x : FormInstance) (w : FieldRec → Bool) :
    (x.eraseInputs w).visited = x.visited := by
  simp [FormInstance.eraseInputs]
@[simp] theorem Written.update_visited (p : Policy) (k : Keyboard) (w : Written) (u : Update) :
    (w.update p k u).form.visited = w.form.visited := by
  unfold Written.update; split <;> simp
@[simp] theorem Written.updates_visited (p : Policy) (k : Keyboard) (us : List Update) (w : Written) :
    (us.foldl (Written.update p k) w).form.visited = w.form.visited := by
  induction us generalizing w with
  | nil => rfl
  | cons u us ih => simp [ih]
@[simp] theorem writeFields_visited (w : WriteOrder) (p : Policy) (k : Keyboard) (x : FormInstance) :
    (writeFields w p k x).form.visited = x.visited := by
  unfold writeFields; dsimp only; repeat' split
  all_goals simp

@[simp] theorem FormInstance.modField_settling (x : FormInstance) (n : Nat) (g : FieldRec → FieldRec) :
    (x.modField n g).settling = x.settling := rfl
@[simp] theorem FormInstance.modFields_settling (x : FormInstance) (w : FieldRec → Bool) (g : FieldRec → FieldRec) :
    (x.modFields w g).settling = x.settling := rfl
@[simp] theorem FormInstance.mark_settling (x : FormInstance) (n : Nat) (m : Mark) : (x.mark n m).settling = x.settling := rfl
@[simp] theorem FormInstance.markFailing_settling (x : FormInstance) : x.markFailing.settling = x.settling := rfl
@[simp] theorem FormInstance.runRule_settling (x : FormInstance) (r : Rule) : (x.runRule r).settling = x.settling := rfl
@[simp] theorem FormInstance.runRules_settling (ns : List Nat) (x : FormInstance) : (x.runRules ns).settling = x.settling := by
  induction ns generalizing x with
  | nil => rfl
  | cons n ns ih => unfold FormInstance.runRules; split <;> simp [ih]
@[simp] theorem FormInstance.recompute_settling (x : FormInstance) (ns : List Nat) : (x.recompute ns).settling = x.settling := by
  simp [FormInstance.recompute]
@[simp] theorem FormInstance.recomputeAll_settling (x : FormInstance) : x.recomputeAll.settling = x.settling := by
  simp [FormInstance.recomputeAll]
@[simp] theorem FormInstance.edit_settling (x : FormInstance) (n : Nat) (t : List Byte) (g : Option Mark → Option Mark) :
    (x.edit n t g).settling = x.settling := by
  simp [FormInstance.edit]
@[simp] theorem FormInstance.eraseInputs_settling (x : FormInstance) (w : FieldRec → Bool) :
    (x.eraseInputs w).settling = x.settling := by
  simp [FormInstance.eraseInputs]
@[simp] theorem Written.update_settling (p : Policy) (k : Keyboard) (w : Written) (u : Update) :
    (w.update p k u).form.settling = w.form.settling := by
  unfold Written.update; split <;> simp
@[simp] theorem Written.updates_settling (p : Policy) (k : Keyboard) (us : List Update) (w : Written) :
    (us.foldl (Written.update p k) w).form.settling = w.form.settling := by
  induction us generalizing w with
  | nil => rfl
  | cons u us ih => simp [ih]
@[simp] theorem writeFields_settling (w : WriteOrder) (p : Policy) (k : Keyboard) (x : FormInstance) :
    (writeFields w p k x).form.settling = x.settling := by
  unfold writeFields; dsimp only; repeat' split
  all_goals simp

@[simp] theorem FormInstance.modField_cursor (x : FormInstance) (n : Nat) (g : FieldRec → FieldRec) :
    (x.modField n g).cursor = x.cursor := rfl
@[simp] theorem FormInstance.modFields_cursor (x : FormInstance) (w : FieldRec → Bool) (g : FieldRec → FieldRec) :
    (x.modFields w g).cursor = x.cursor := rfl
@[simp] theorem FormInstance.mark_cursor (x : FormInstance) (n : Nat) (m : Mark) : (x.mark n m).cursor = x.cursor := rfl
@[simp] theorem FormInstance.markFailing_cursor (x : FormInstance) : x.markFailing.cursor = x.cursor := rfl
@[simp] theorem FormInstance.runRule_cursor (x : FormInstance) (r : Rule) : (x.runRule r).cursor = x.cursor := rfl
@[simp] theorem FormInstance.runRules_cursor (ns : List Nat) (x : FormInstance) : (x.runRules ns).cursor = x.cursor := by
  induction ns generalizing x with
  | nil => rfl
  | cons n ns ih => unfold FormInstance.runRules; split <;> simp [ih]
@[simp] theorem FormInstance.recompute_cursor (x : FormInstance) (ns : List Nat) : (x.recompute ns).cursor = x.cursor := by
  simp [FormInstance.recompute]
@[simp] theorem FormInstance.recomputeAll_cursor (x : FormInstance) : x.recomputeAll.cursor = x.cursor := by
  simp [FormInstance.recomputeAll]
@[simp] theorem FormInstance.edit_cursor (x : FormInstance) (n : Nat) (t : List Byte) (g : Option Mark → Option Mark) :
    (x.edit n t g).cursor = x.cursor := by
  simp [FormInstance.edit]
@[simp] theorem FormInstance.eraseInputs_cursor (x : FormInstance) (w : FieldRec → Bool) :
    (x.eraseInputs w).cursor = x.cursor := by
  simp [FormInstance.eraseInputs]
@[simp] theorem Written.update_cursor (p : Policy) (k : Keyboard) (w : Written) (u : Update) :
    (w.update p k u).form.cursor = w.form.cursor := by
  unfold Written.update; split <;> simp
@[simp] theorem Written.updates_cursor (p : Policy) (k : Keyboard) (us : List Update) (w : Written) :
    (us.foldl (Written.update p k) w).form.cursor = w.form.cursor := by
  induction us generalizing w with
  | nil => rfl
  | cons u us ih => simp [ih]
@[simp] theorem writeFields_cursor (w : WriteOrder) (p : Policy) (k : Keyboard) (x : FormInstance) :
    (writeFields w p k x).form.cursor = x.cursor := by
  unfold writeFields; dsimp only; repeat' split
  all_goals simp

@[simp] theorem FormInstance.modField_insert (x : FormInstance) (n : Nat) (g : FieldRec → FieldRec) :
    (x.modField n g).insert = x.insert := rfl
@[simp] theorem FormInstance.modFields_insert (x : FormInstance) (w : FieldRec → Bool) (g : FieldRec → FieldRec) :
    (x.modFields w g).insert = x.insert := rfl
@[simp] theorem FormInstance.mark_insert (x : FormInstance) (n : Nat) (m : Mark) : (x.mark n m).insert = x.insert := rfl
@[simp] theorem FormInstance.markFailing_insert (x : FormInstance) : x.markFailing.insert = x.insert := rfl
@[simp] theorem FormInstance.runRule_insert (x : FormInstance) (r : Rule) : (x.runRule r).insert = x.insert := rfl
@[simp] theorem FormInstance.runRules_insert (ns : List Nat) (x : FormInstance) : (x.runRules ns).insert = x.insert := by
  induction ns generalizing x with
  | nil => rfl
  | cons n ns ih => unfold FormInstance.runRules; split <;> simp [ih]
@[simp] theorem FormInstance.recompute_insert (x : FormInstance) (ns : List Nat) : (x.recompute ns).insert = x.insert := by
  simp [FormInstance.recompute]
@[simp] theorem FormInstance.recomputeAll_insert (x : FormInstance) : x.recomputeAll.insert = x.insert := by
  simp [FormInstance.recomputeAll]
@[simp] theorem FormInstance.edit_insert (x : FormInstance) (n : Nat) (t : List Byte) (g : Option Mark → Option Mark) :
    (x.edit n t g).insert = x.insert := by
  simp [FormInstance.edit]
@[simp] theorem FormInstance.eraseInputs_insert (x : FormInstance) (w : FieldRec → Bool) :
    (x.eraseInputs w).insert = x.insert := by
  simp [FormInstance.eraseInputs]
@[simp] theorem Written.update_insert (p : Policy) (k : Keyboard) (w : Written) (u : Update) :
    (w.update p k u).form.insert = w.form.insert := by
  unfold Written.update; split <;> simp
@[simp] theorem Written.updates_insert (p : Policy) (k : Keyboard) (us : List Update) (w : Written) :
    (us.foldl (Written.update p k) w).form.insert = w.form.insert := by
  induction us generalizing w with
  | nil => rfl
  | cons u us ih => simp [ih]
@[simp] theorem writeFields_insert (w : WriteOrder) (p : Policy) (k : Keyboard) (x : FormInstance) :
    (writeFields w p k x).form.insert = x.insert := by
  unfold writeFields; dsimp only; repeat' split
  all_goals simp

@[simp] theorem FormInstance.writeCursor_number (x : FormInstance) (c : Option (Nat × Nat)) :
    (x.writeCursor c).number = x.number := by
  unfold FormInstance.writeCursor; repeat' split
  all_goals rfl
@[simp] theorem FormInstance.writeCursor_generation (x : FormInstance) (c : Option (Nat × Nat)) :
    (x.writeCursor c).generation = x.generation := by
  unfold FormInstance.writeCursor; repeat' split
  all_goals rfl
@[simp] theorem FormInstance.writeCursor_defn (x : FormInstance) (c : Option (Nat × Nat)) :
    (x.writeCursor c).defn = x.defn := by
  unfold FormInstance.writeCursor; repeat' split
  all_goals rfl
@[simp] theorem FormInstance.writeCursor_order (x : FormInstance) (c : Option (Nat × Nat)) :
    (x.writeCursor c).order = x.order := by
  unfold FormInstance.writeCursor; repeat' split
  all_goals rfl
@[simp] theorem FormInstance.writeCursor_classes (x : FormInstance) (c : Option (Nat × Nat)) :
    (x.writeCursor c).classes = x.classes := by
  unfold FormInstance.writeCursor; repeat' split
  all_goals rfl
@[simp] theorem FormInstance.writeCursor_page (x : FormInstance) (c : Option (Nat × Nat)) :
    (x.writeCursor c).page = x.page := by
  unfold FormInstance.writeCursor; repeat' split
  all_goals rfl
@[simp] theorem FormInstance.writeCursor_visited (x : FormInstance) (c : Option (Nat × Nat)) :
    (x.writeCursor c).visited = x.visited := by
  unfold FormInstance.writeCursor; repeat' split
  all_goals rfl
@[simp] theorem FormInstance.writeCursor_settling (x : FormInstance) (c : Option (Nat × Nat)) :
    (x.writeCursor c).settling = x.settling := by
  unfold FormInstance.writeCursor; repeat' split
  all_goals rfl
@[simp] theorem FormInstance.writeCursor_insert (x : FormInstance) (c : Option (Nat × Nat)) :
    (x.writeCursor c).insert = x.insert := by
  unfold FormInstance.writeCursor; repeat' split
  all_goals rfl

@[simp] theorem FormInstance.turnTo_number (x : FormInstance) (p : Nat) : (x.turnTo p).number = x.number := rfl
@[simp] theorem FormInstance.turnTo_generation (x : FormInstance) (p : Nat) : (x.turnTo p).generation = x.generation := rfl
@[simp] theorem FormInstance.turnTo_defn (x : FormInstance) (p : Nat) : (x.turnTo p).defn = x.defn := rfl
@[simp] theorem FormInstance.turnTo_order (x : FormInstance) (p : Nat) : (x.turnTo p).order = x.order := rfl
@[simp] theorem FormInstance.turnTo_classes (x : FormInstance) (p : Nat) : (x.turnTo p).classes = x.classes := rfl
@[simp] theorem FormInstance.turnTo_settling (x : FormInstance) (p : Nat) : (x.turnTo p).settling = x.settling := rfl
@[simp] theorem FormInstance.turnTo_insert (x : FormInstance) (p : Nat) : (x.turnTo p).insert = x.insert := rfl

/-- The records that a change of one field leaves: each record of that number changed, the others as they were. -/
theorem FormInstance.modField_fields (x : FormInstance) (n : Nat) (g : FieldRec → FieldRec) :
    (x.modField n g).fields = x.fields.map fun f => if f.defn.number = n then g f else f := rfl

end Sys2Proof.Machine
end

