-- ==== Sys2Proof/Laws/Tables.lean ====
section
/-! SUPPORT. Tables keyed by number: what is found after a record has been put or taken out, and that the
canonical form is kept. -/

namespace Sys2Proof.Machine

variable {α : Type}

@[simp] theorem lookupKey_nil (k : Nat) : lookupKey k ([] : Table α) = none := rfl

theorem lookupKey_cons (k k' : Nat) (v : α) (t : Table α) :
    lookupKey k ((k', v) :: t) = if k = k' then some v else lookupKey k t := rfl

/-- A record put is found under its number, and every other number finds what it found. -/
theorem lookupKey_putKey (k j : Nat) (v : α) (t : Table α) :
    lookupKey j (putKey k v t) = if j = k then some v else lookupKey j t := by
  induction t with
  | nil => rfl
  | cons e t ih =>
    obtain ⟨k', v'⟩ := e
    simp only [putKey]
    split
    · rw [lookupKey_cons]
    · split
      · rename_i h; subst h
        simp only [lookupKey_cons]; split <;> rfl
      · rename_i h; rw [lookupKey_cons, ih, lookupKey_cons]
        by_cases hj : j = k'
        · subst hj; simp [Ne.symm h]
        · simp [hj]

/-- A record taken out is no longer found, and every other number finds what it found. -/
theorem lookupKey_removeKey (k j : Nat) (t : Table α) :
    lookupKey j (removeKey k t) = if j = k then none else lookupKey j t := by
  induction t with
  | nil => simp [removeKey]
  | cons e t ih =>
    obtain ⟨k', v'⟩ := e
    have ih : lookupKey j (t.filter fun e => e.1 != k) = if j = k then none else lookupKey j t := ih
    simp only [removeKey, List.filter_cons]
    by_cases h : k' = k
    · subst h; simp only [bne_self_eq_false, Bool.false_eq_true, if_false, ih, lookupKey_cons]
      split <;> rfl
    · simp only [bne_iff_ne, ne_eq, h, not_false_eq_true, if_true, lookupKey_cons, ih]
      by_cases hj : j = k'
      · subst hj; simp [h]
      · simp [hj]

/-- One staged entry applied: its number finds its record, or nothing, and every other number what it found. -/
theorem lookupKey_applyStaged (t : Table α) (e : Nat × Option α) (j : Nat) :
    lookupKey j (applyStaged t e) = if j = e.1 then e.2 else lookupKey j t := by
  obtain ⟨k, v⟩ := e
  cases v with
  | none => exact lookupKey_removeKey k j t
  | some v => exact lookupKey_putKey k j v t

theorem mem_keys_putKey (k j : Nat) (v : α) (t : Table α) :
    j ∈ (putKey k v t).map Prod.fst ↔ j = k ∨ j ∈ t.map Prod.fst := by
  induction t with
  | nil => simp [putKey]
  | cons e t ih =>
    obtain ⟨k', v'⟩ := e
    simp only [putKey]
    split
    · simp
    · split
      · rename_i h; subst h; simp
      · rw [List.map_cons, List.mem_cons, ih, List.map_cons, List.mem_cons]
        constructor
        · rintro (h | h | h) <;> simp [h]
        · rintro (h | h | h) <;> simp [h]

/-- Putting a record keeps the canonical form. -/
theorem Table.Sound.putKey {top k : Nat} {t : Table α} (h : Table.Sound top t) (lo : 1 ≤ k) (hi : k ≤ top) (v : α) :
    Table.Sound top (putKey k v t) := by
  refine ⟨?_, fun j hj => ?_⟩
  · have hs := h.1
    clear h
    induction t with
    | nil => simp [Machine.putKey]
    | cons e t ih =>
      obtain ⟨k', v'⟩ := e
      rw [List.map_cons, List.pairwise_cons] at hs
      simp only [Machine.putKey]
      split
      · rename_i hk
        rw [List.map_cons, List.pairwise_cons]
        refine ⟨fun j hj => ?_, by rw [List.map_cons, List.pairwise_cons]; exact hs⟩
        rw [List.map_cons, List.mem_cons] at hj
        rcases hj with rfl | hj
        · exact hk
        · exact hk.trans (hs.1 j hj)
      · split
        · rename_i hk; subst hk
          rw [List.map_cons, List.pairwise_cons]; exact hs
        · rename_i h1 h2
          rw [List.map_cons, List.pairwise_cons]
          refine ⟨fun j hj => ?_, ih hs.2⟩
          rcases (mem_keys_putKey k j v t).mp hj with rfl | hj
          · show k' < j; omega
          · exact hs.1 j hj
  · rcases (mem_keys_putKey k j v t).mp hj with rfl | hj
    · exact ⟨lo, hi⟩
    · exact h.2 j hj

/-- Taking a record out keeps the canonical form. -/
theorem Table.Sound.removeKey {top : Nat} {t : Table α} (h : Table.Sound top t) (k : Nat) :
    Table.Sound top (removeKey k t) := by
  have sub : ((Machine.removeKey k t).map Prod.fst).Sublist (t.map Prod.fst) := List.filter_sublist.map _
  exact ⟨h.1.sublist sub, fun j hj => h.2 j (sub.subset hj)⟩

/-- Applying a staged entry keeps the canonical form. -/
theorem Table.Sound.applyStaged {top : Nat} {t : Table α} (h : Table.Sound top t) {e : Nat × Option α}
    (lo : 1 ≤ e.1) (hi : e.1 ≤ top) : Table.Sound top (applyStaged t e) := by
  obtain ⟨k, v⟩ := e
  cases v with
  | none => exact h.removeKey k
  | some v => exact h.putKey lo hi v

end Sys2Proof.Machine
end

