-- ==== Sys2Proof/Tests/Slice0.lean ====
section
/-! SUPPORT. Tests by name: one ill-formed term for each check of WellFormed, worked examples and tables of the
spec, single steps on a small state, and a witness for the hypotheses of each statement. -/

namespace Sys2Proof.Tests

open Machine

set_option Elab.async false

/-! ## A small library, a station that holds an instance, and steps on them -/

/-- A text from a Lean string. -/
def tx (s : String) : List Byte := textOf s.toList

/-- A field of class `cls`, without flags or default. -/
def fieldAt (number page row column length : Nat) (kind : FieldKind) (cls : Nat) : FieldDef where
  number := number
  page := page
  row := row
  column := column
  length := length
  kind := kind
  skip := false
  bright := false
  hidden := false
  cls := cls
  default := []

/-- DIGITS up to 100. -/
def digits : ClassDef := ⟨.digits, 0, false, false, false, false, none, some 100⟩

/-- Two pages in a cycle, F2 short: a SKIP field of digits, a plain field, the sum of the first in a computed
field, and a field on page 2. -/
def smallForm : FormDef where
  pages := 2
  cycle := true
  shortKeys := 0b10#12
  initial := some 1
  fields :=
    [{ fieldAt 1 1 1 1 3 .input 1 with skip := true }, fieldAt 2 1 2 1 3 .input 0, fieldAt 3 1 3 1 5 .fixed 0,
      fieldAt 4 2 1 1 2 .input 0]
  rules := [⟨1, .sum, [1], 3, 0, false, true⟩]

/-- Scans that begin with A go to field 2, the A stripped. -/
def smallRoute : RouteDef := ⟨some 1, tx "A", 1#8, 0, 1, 2⟩

/-- The library that holds them after one COMMIT. -/
def library : Library :=
  { Library.reset with
    forms := [(1, ⟨smallForm, computationOrder smallForm.rules⟩)]
    classes := [(1, digits)]
    routes := [(1, smallRoute)]
    generation := 1 }

/-- The instance that a SHOW of it builds on a station whose line is DOWN. -/
def fresh : FormInstance := newInstance 1 1 ⟨smallForm, computationOrder smallForm.rules⟩ [(1, digits)] false

/-- The instance with 12 keyed into its first field, the cursor left there. -/
def keyed : FormInstance := fresh.edit 1 (tx "12 ") fun _ => none

/-- An ACTIVE station that shows an instance, its line UP and nothing to paint. -/
def stationOf (x : FormInstance) : Station :=
  { Station.reset with
    state := .active
    form := some x
    line := { LineUnit.reset with up := true, silence := some 3, repaintAll := false, lastCursor := some x.cursor } }

/-- The part with that library, with `st` as its station 0, and with a command waiting. -/
def partOf (st : Station) : State :=
  { (State.reset.setStation 0 st) with library := library, pending := [.key 0 0x41#8] }

/-- The station with an item at the head of its key queue. -/
def holding (x : FormInstance) (it : Item) : Station := { stationOf x with queue := [it] }

/-- A station of the state that a command answers. -/
def after (c : Instr) (s : State) (i : StationId) : Station :=
  match exec c s with
  | .next t => t.station i
  | _ => Station.reset

/-- The host line of the state that a command answers. -/
def hostAfter (c : Instr) (s : State) : HostLine :=
  match exec c s with
  | .next t => t.host
  | _ => HostLine.reset

/-- The events of the state that a command answers. -/
def eventsAfter (c : Instr) (s : State) : EventUnit :=
  match exec c s with
  | .next t => t.events
  | _ => EventUnit.reset

/-- The library of the state that a command answers. -/
def libraryAfter (c : Instr) (s : State) : Library :=
  match exec c s with
  | .next t => t.library
  | _ => Library.reset

/-- The content of a field of the instance that a station holds. -/
def contentOf (st : Station) (n : Nat) : List Byte := ((st.form.bind fun x => x.field? n).map (·.content)).getD []

/-- The mark of a field of the instance that a station holds. -/
def markOf (st : Station) (n : Nat) : Option Mark := (st.form.bind fun x => x.field? n).bind (·.mark)

/-- The cursor of the instance that a station holds. -/
def cursorOf (st : Station) : Option Nat := st.form.map (·.cursor)

/-- Undamaged bytes of a station line. -/
def clean (bs : List Byte) : List LineByte := bs.map fun b => ⟨b, false, false⟩

/-- The response whose frame is in transmission. -/
def answerOf (h : HostLine) : Option Response := h.inTx.map (·.response)

/-! ## Ill-formed terms that the checks refuse -/

theorem test_wellFormed_refuses_a_form_number : (Instr.showForm 1#8 1#8 33 false).wellFormed = false := by decide

theorem test_wellFormed_refuses_a_page_zero : (Instr.page 1#8 1#8 0).wellFormed = false := by decide

theorem test_wellFormed_refuses_a_key_code : (Instr.key 0 0x7F#8).wellFormed = false := by decide

theorem test_wellFormed_refuses_an_empty_scan : (Instr.scan 0 true []).wellFormed = false := by decide

theorem test_wellFormed_refuses_an_undamaged_message :
    (Instr.damagedMessage 0 (clean [0x1E#8, 0x04#8, 0x00#8, 0x1F#8])).wellFormed = false := by decide +kernel

theorem test_wellFormed_refuses_a_frame_too_long :
    (Instr.notice 1#8 1#8 none (List.replicate 256 blank)).wellFormed = false := by decide +kernel

theorem test_formValid_refuses_five_pages : formValid { smallForm with pages := 5 } = false := by decide

theorem test_fieldValid_refuses_row_24 : fieldValid (fieldAt 1 1 24 1 1 .input 0) = false := by decide

theorem test_ruleValid_refuses_one_source : ruleValid ⟨1, .product, [1], 3, 0, false, false⟩ = false := by decide

theorem test_classValid_refuses_five_places : classValid { digits with places := 5 } = false := by decide

theorem test_routeValid_refuses_a_mask_beyond_the_pattern : routeValid { smallRoute with mask := 2#8 } = false := by
  decide

theorem test_loadValid_refuses_no_entries : loadValid (.forms []) = false := by decide

theorem test_updateValid_refuses_an_unprintable_text : updateValid ⟨1, none, [0x1F#8]⟩ = false := by decide

theorem test_writeValid_refuses_page_zero :
    writeValid ⟨false, false, false, some 0, none, false, none, []⟩ = false := by decide

theorem test_stationSet_refuses_a_long_timeout :
    requestValid (.stationSet 1#8 ⟨none, some 256, none, none, none, none⟩) = false := by decide

/-! ## Worked examples and tables of the spec -/

/-- R191: the bytes of a HOLD for stations 2 and 5 under tag 7. -/
theorem test_hold_frame :
    frameBytes 0x13#8 0x07#8 (requestBytes (.hold 0x24#8)) =
      [0x5A#8, 0x13#8, 0x07#8, 0x00#8, 0x01#8, 0x24#8, 0xFF#8, 0xC1#8] := by decide

theorem test_hold_payload_decodes : decodeRequest 0x13#8 [0x24#8] = some (.hold 0x24#8) := by decide +kernel

/-- R94: 601.50 rounds to 602, 125.5 to 126, −2.5 to −3, 120.48 to 120, −2.49 to −2, −0.4 to 0. -/
theorem test_rescale_examples :
    rescale 60150 2 0 = 602 ∧ rescale 1255 1 0 = 126 ∧ rescale (-25) 1 0 = -3 ∧ rescale 12048 2 0 = 120 ∧
      rescale (-249) 2 0 = -2 ∧ rescale (-4) 1 0 = 0 := by decide

/-- The display table of R96. -/
theorem test_display_table :
    displayString 1004 2 = tx "10.04" ∧ displayString 5 2 = tx "0.05" ∧ displayString (-5) 2 = tx "-0.05" ∧
      displayString 0 2 = tx "0.00" ∧ displayString 0 0 = tx "0" ∧ displayString (-3) 0 = tx "-3" ∧
      displayString 2406 2 = tx "24.06" := by decide +kernel

/-- R96: −99.99 fits a field of length 6, −999.99 overflows it. -/
theorem test_display_width :
    displayValue (-9999) 2 6 = (.value (-9999), tx "-99.99") ∧
      displayValue (-99999) 2 6 = (.overflow, tx "******") := by decide +kernel

/-- R57: the example of keying C, X and Y into "ABD   " with insert mode on. -/
theorem test_insert_example :
    placed true (tx "ABD   ") 2 0x43#8 = tx "ABCD  " ∧ placed true (tx "ABCD  ") 3 0x58#8 = tx "ABCXD " ∧
      placed true (tx "ABCXD ") 4 0x59#8 = tx "ABCXYD" := by decide +kernel

/-! ## Single steps -/

theorem test_powerOn_raises_power_on : (eventsAfter .powerOn (partOf (stationOf fresh))).partFlags = 1#3 := by
  decide +kernel

theorem test_requestFrame_counts_a_failed_check :
    (hostAfter (.requestFrame 0#8)
      { State.reset with host := { HostLine.reset with framer := .check 1#16 0x13#8 7#8 [] (some 0#8) } }).checkErrors = 1 := by
  decide +kernel

theorem test_frameLengthError_at_1025 :
    (hostAfter (.frameLengthError 1#8)
      { State.reset with host := { HostLine.reset with framer := .header 0#16 [0x13#8, 7#8, 4#8] } }).lengthErrors = 1 := by
  decide +kernel

theorem test_hostLineByte_finds_the_sync :
    (hostAfter (.hostLineByteReceived 0x5A#8) State.reset).framer = .header 0#16 [] := by decide +kernel

theorem test_responseTransmissionComplete_lowers_the_count :
    (hostAfter .responseTransmissionComplete
      { State.reset with host := HostLine.reset.answered 7#8 (.accept .identify) }).outstanding = 0 := by
  decide +kernel

theorem test_stage_counts_its_entries :
    (libraryAfter (.stage 1#8 (.classes [(1, some digits), (2, none)])) State.reset).staged = 2 := by decide +kernel

theorem test_discard_answers_the_entries_removed :
    answerOf (hostAfter (.discard 1#8)
      { State.reset with library := { library with stagedClasses := [(1, none)] } }) = some (.accept (.discard 1)) := by
  decide +kernel

theorem test_commit_refuses_an_empty_staging_area :
    answerOf (hostAfter (.commit 1#8 0#16) State.reset) = some (.refuse 0x03#8 (.code .noStage)) := by decide +kernel

/-- R23: the generation after 65535 is 1. -/
theorem test_commit_wraps_the_generation :
    (libraryAfter (.commit 1#8 0#16)
      { State.reset with library := { library with stagedClasses := [(2, some digits)], generation := 65535 } }).generation = 1 := by
  decide +kernel

theorem test_lock_adds_to_the_lock_set :
    (libraryAfter (.lock 1#8 0b001#3) { State.reset with library := { library with locks := 0b100#3 } }).locks = 0b101#3 := by
  decide +kernel

theorem test_show_is_refused_suspended :
    answerOf (hostAfter (.showForm 1#8 1#8 1 false) (partOf { Station.reset with state := .suspended })) =
      some (.accept (.outcomes 0x10#8 [(0, .refused .suspended)])) := by decide +kernel

theorem test_show_holds_the_keyboard :
    (after (.showForm 1#8 1#8 1 true) (partOf Station.reset) 0).keyboard = .held := by decide +kernel

/-- R140: KEEP keeps a touched input field in FREE, and OVERRIDE replaces it. -/
theorem test_write_keeps_a_touched_field :
    contentOf (after (.write 1#8 1#8 ⟨false, false, false, none, none, false, none, [⟨1, none, tx "7"⟩]⟩)
      (partOf (stationOf keyed)) 0) 1 = tx "12 " := by decide +kernel

theorem test_write_restores_a_timed_out_keyboard :
    answerOf (hostAfter (.write 1#8 1#8 ⟨false, false, false, none, none, true, none, []⟩)
      (partOf { stationOf keyed with keyboard := .timedOut })) =
      some (.accept (.outcomes 0x11#8 [(0, .applied true [] [])])) := by decide +kernel

theorem test_notice_is_padded :
    (after (.notice 1#8 1#8 none (tx "HI")) (partOf (stationOf fresh)) 0).notice = tx "HI" ++ List.replicate 38 blank := by
  decide +kernel

theorem test_hold_stops_the_timer :
    (after (.hold 1#8 1#8) (partOf { stationOf fresh with keyboard := .waiting, timer := some 30 }) 0).timer = none := by
  decide +kernel

theorem test_release_leaves_a_waiting_keyboard :
    (after (.release 1#8 1#8) (partOf { stationOf fresh with keyboard := .waiting, timer := some 30 }) 0).keyboard = .waiting := by
  decide +kernel

theorem test_page_beyond_the_form :
    answerOf (hostAfter (.page 1#8 1#8 3) (partOf (stationOf fresh))) =
      some (.accept (.outcomes 0x15#8 [(0, .refused .badPage)])) := by decide +kernel

theorem test_reread_reports_the_touched_field :
    ((after (.reread 1#8 1#8) (partOf (stationOf keyed)) 0).slot.map (·.touched)) = some [(1, tx "12")] := by
  decide +kernel

theorem test_stationSet_is_refused_busy :
    answerOf (hostAfter (.stationSet 1#8 1#8 ⟨some true, none, none, none, none, none⟩) (partOf (stationOf fresh))) =
      some (.accept (.outcomes 0x17#8 [(0, .refused .busy)])) := by decide +kernel

theorem test_stationReset_clears_the_flags :
    (eventsAfter (.stationReset 1#8 1#8)
      { partOf (stationOf fresh) with
        events := EventUnit.reset.raiseStation 0 .entryReady }).stationFlags[0] = 0#8 := by decide +kernel

theorem test_suspend_waits_for_the_event_flags :
    answerOf (hostAfter (.suspend 1#8 1#8)
      { partOf (stationOf fresh) with events := EventUnit.reset.raiseStation 0 .responseTimeout }) =
      some (.accept (.outcomes 0x19#8 [(0, .refused .pending)])) := by decide +kernel

theorem test_resume_starts_the_timer_afresh :
    (after (.resume 1#8 1#8) (partOf { stationOf fresh with state := .suspended, keyboard := .waiting }) 0).timer =
      some 30 := by decide +kernel

theorem test_pollScan_of_nothing_answers_zero :
    answerOf (hostAfter (.pollScan 1#8 0xFF#8) State.reset) = some (.pollEnd 0) := by decide +kernel

/-- R179: with an unchanged group the pointer's own station is examined last. -/
theorem test_pollNext_goes_round :
    answerOf (hostAfter (.pollNext 1#8 0x09#8)
      { ((State.reset.setStation 0 { Station.reset with attention := true }).setStation 3
          { Station.reset with attention := true }) with
        host := { HostLine.reset with group := 0x09#8, pointer := 0 } }) = some (.entry 3 true none) := by
  decide +kernel

theorem test_stationStatus_names_its_station :
    (match answerOf (hostAfter (.stationStatus 1#8 5) State.reset) with
      | some (.accept (.stationStatus r)) => r.station
      | _ => 0) = 5 := by decide +kernel

theorem test_enableEvents_keeps_power_on :
    (eventsAfter (.enableEvents 1#8 0#11) State.reset).enables = 0b00100000000#11 := by decide +kernel

theorem test_clearEvents_negates_srq : (eventsAfter (.clearEvents 1#8 0#3 (Vector.replicate 8 0#8)) State.reset).srq = false := by
  decide +kernel

theorem test_holdOffExpiry_asserts_srq :
    (eventsAfter .holdOffExpiry
      { State.reset with events := { EventUnit.reset with holdOff := some 200, srq := false } }).srq = true := by
  decide +kernel

theorem test_partReset_answers_alone :
    (hostAfter (.partReset 1#8) { State.reset with host := HostLine.reset.answered 7#8 (.accept .identify) }).outstanding = 1 := by
  decide +kernel

/-- R159, R164: a KEY that brings the line UP starts the repaint before the tone that its item asks is pending. -/
theorem test_key_repaints_before_its_tone :
    (after (.key 0 0x41#8)
      (partOf { stationOf fresh with keyboard := .waiting, timer := some 30, line := LineUnit.reset }) 0).line =
      { LineUnit.reset with
        up := true, silence := some 3, repaintAll := false, repaint := some 1, inFlight := some .erase,
        tone := some .short, lastCursor := some 0 } := by decide +kernel

theorem test_seventeenth_key_is_discarded :
    (after (.key 0 0x41#8) (partOf { stationOf fresh with queue := List.replicate 16 .reset }) 0).queue.length = 16 := by
  decide +kernel

theorem test_thirty_second_bad_scan_suspends :
    (after (.scan 0 false [])
      (partOf { stationOf fresh with line := { (stationOf fresh).line with scanErrors := 31 } }) 0).line.scanner = .suspended := by
  decide +kernel

theorem test_attn_sets_attention : (after (.attn 0) (partOf (stationOf fresh)) 0).attention = true := by decide +kernel

theorem test_alive_raises_line_up_only_when_enabled :
    (eventsAfter (.alive 0) State.reset).stationFlags[0] = 0#8 := by decide +kernel

/-- R156, R199: bytes outside a message are discarded uncounted, and parity comes before framing. -/
theorem test_parity_comes_before_framing :
    (after (.damagedMessage 0 [⟨0x1F#8, true, true⟩, ⟨0x1E#8, false, false⟩, ⟨0x04#8, true, true⟩, ⟨0x00#8, false, false⟩,
      ⟨0x1E#8, false, false⟩]) State.reset 0).line = { LineUnit.reset with parityErrors := 1 } := by decide +kernel

/-- R199: the length says how many body bytes the receiver takes. -/
theorem test_receiver_reads_its_length :
    (after (.damagedMessage 0 (clean [0x1E#8, 0x01#8, 0x02#8, 0x1F#8])) State.reset 0).line.receiver =
      .reading false false [0x01#8, 0x02#8, 0x1F#8] := by decide +kernel

theorem test_silence_empties_the_queue :
    (after (.silenceTimerExpiry 0) (partOf (holding fresh .reset)) 0).queue = [] := by decide +kernel

theorem test_transmissionComplete_starts_the_repaint :
    ((after (.transmissionComplete 0)
      (partOf { stationOf fresh with
        line := { (stationOf fresh).line with repaintAll := true, inFlight := some (.cursor 1 1) } }) 0).line.inFlight) =
      some .erase := by decide +kernel

theorem test_responseTimerExpiry_shows_no_reply :
    (after (.responseTimerExpiry 0) (partOf { stationOf fresh with keyboard := .waiting, timer := some 30 }) 0).keyboard =
      .timedOut := by decide +kernel

theorem test_char_is_placed_and_summed :
    contentOf (after (.char 0) (partOf (holding keyed (.char 0x37#8))) 0) 3 = tx "   72" := by decide +kernel

theorem test_char_outside_its_class :
    markOf (after (.char 0) (partOf (holding fresh (.char 0x41#8))) 0) 1 = some .char := by decide +kernel

theorem test_insert_toggles : ((after (.insert 0) (partOf (holding fresh (.edit .insert))) 0).form.map (·.insert)) = some true := by
  decide +kernel

theorem test_delete_moves_left : contentOf (after (.delete 0) (partOf (holding keyed (.edit .delete))) 0) 1 = tx "2  " := by
  decide +kernel

theorem test_backspace_deletes_to_the_left :
    contentOf (after (.backspace 0) (partOf (holding { keyed with cursor := 1 } (.edit .backspace))) 0) 1 = tx "2  " := by
  decide +kernel

theorem test_eraseField_keeps_what_is_left_of_the_cursor :
    contentOf (after (.eraseField 0) (partOf (holding { keyed with cursor := 1 } (.edit .eraseField))) 0) 1 = tx "1  " := by
  decide +kernel

theorem test_eraseInput_blanks_the_page :
    contentOf (after (.eraseInput 0) (partOf (holding keyed (.edit .eraseInput))) 0) 1 = tx "   " := by decide +kernel

theorem test_tab_goes_to_the_next_field : cursorOf (after (.tab 0) (partOf (holding fresh (.move .tab))) 0) = some 80 := by
  decide +kernel

theorem test_backtab_wraps : cursorOf (after (.backtab 0) (partOf (holding fresh (.move .backtab))) 0) = some 80 := by
  decide +kernel

theorem test_up_wraps : cursorOf (after (.up 0) (partOf (holding fresh (.move .up))) 0) = some 1760 := by decide +kernel

theorem test_down_moves_a_row : cursorOf (after (.down 0) (partOf (holding fresh (.move .down))) 0) = some 80 := by
  decide +kernel

theorem test_left_wraps : cursorOf (after (.left 0) (partOf (holding fresh (.move .left))) 0) = some 1839 := by
  decide +kernel

/-- R59: leaving a touched field that is not a number marks it and leaves the cursor. -/
theorem test_right_is_guarded :
    cursorOf (after (.right 0) (partOf (holding { fresh.edit 1 (tx "1 2") fun _ => none with cursor := 2 } (.move .right))) 0) =
      some 2 := by decide +kernel

theorem test_home_goes_to_the_first_field :
    cursorOf (after (.home 0) (partOf (holding { fresh with cursor := 500 } (.move .home))) 0) = some 0 := by
  decide +kernel

theorem test_newline_goes_to_the_next_row :
    cursorOf (after (.newline 0) (partOf (holding fresh (.move .newline))) 0) = some 80 := by decide +kernel

theorem test_pageNext_turns : ((after (.pageNext 0) (partOf (holding fresh (.move .pageNext))) 0).form.map (·.visited)) =
    some 0b0011#4 := by decide +kernel

theorem test_pagePrior_wraps : ((after (.pagePrior 0) (partOf (holding fresh (.move .pagePrior))) 0).form.map (·.page)) =
    some 2 := by decide +kernel

theorem test_reset_frees_the_keyboard :
    (after (.reset 0) (partOf { holding fresh .reset with keyboard := .inhibited .prot }) 0).keyboard = .free := by
  decide +kernel

theorem test_enter_waits : (after (.enter 0) (partOf (holding keyed (.intent .enter))) 0).keyboard = .waiting := by
  decide +kernel

/-- R78, R84: the limit is judged at a full send. -/
theorem test_enter_judges_the_limit :
    markOf (after (.enter 0) (partOf (holding (fresh.edit 1 (tx "101") fun _ => none) (.intent .enter))) 0) 1 =
      some .rangeHigh := by decide +kernel

theorem test_short_key_sends_empty_lists :
    ((after (.functionKey 0) (partOf (holding keyed (.intent (.function 1)))) 0).slot.map (·.touched)) = some [] := by
  decide +kernel

theorem test_cancel_skips_validation :
    (after (.cancel 0) (partOf (holding (fresh.edit 1 (tx "101") fun _ => none) (.intent .cancel))) 0).keyboard = .waiting := by
  decide +kernel

theorem test_clear_restores_the_defaults :
    contentOf (after (.clear 0) (partOf (holding keyed (.intent .clear))) 0) 1 = tx "   " := by decide +kernel

theorem test_scanItem_strips_and_places :
    contentOf (after (.scanItem 0) (partOf (holding fresh (.scan (tx "AXY")))) 0) 2 = tx "XY " := by decide +kernel

/-! ## Witnesses: states and operands that meet the hypotheses of the statements -/

/-- The station of the tests, its image composed. -/
def shown : Station := { stationOf fresh with image := composeImage (stationOf fresh) }

/-- The part with it as station 0 and a KEY waiting. -/
def demo : State := partOf shown

theorem demo_stations {P : Station → Prop} (h : P shown) (k : P Station.reset) : ∀ i, P (demo.station i) := by
  intro i
  by_cases hi : i = 0
  · subst hi; exact h
  · have e : demo.station i = Station.reset := by revert i; decide +kernel
    rw [e]; exact k

theorem demo_steps : ∃ t, step demo = .next t := ⟨_, rfl⟩

theorem shown_form {P : FormInstance → Prop} (h : P fresh) : ∀ x, shown.form = some x → P x := by
  intro x e; cases e; exact h

theorem reset_form {P : FormInstance → Prop} : ∀ x, Station.reset.form = some x → P x := by
  intro x e; cases e

theorem test_witness_StepRunsTheFrontCommand : State.reset.pending = [] := rfl

/-- A station that is not ACTIVE, a settling one, one WAITING, one HELD and one with another item at its head; and the
timers and the transmissions that are not going on. -/
theorem test_witness_EveryCommandGoesOn :
    Station.reset.state ≠ .active ∧
      (∃ x, (stationOf { fresh with settling := true }).form = some x ∧ x.settling = true) ∧
      ({ holding fresh .reset with keyboard := .waiting } : Station).keyboard = .waiting ∧
      ({ holding fresh .reset with keyboard := .held } : Station).keyboard = .held ∧
      (∀ head q, (holding fresh (.char 0x41#8)).queue = head :: q → takeRow 0 head ≠ takeRow 0 .reset) ∧
      Station.reset.line.silence = none ∧ Station.reset.line.inFlight = none ∧ Station.reset.timer = none ∧
      EventUnit.reset.holdOff = none ∧ HostLine.reset.inTx = none := by
  refine ⟨by decide, ⟨_, rfl, rfl⟩, rfl, rfl, ?_, rfl, rfl, rfl, rfl, rfl⟩
  intro head q h
  cases h
  decide

theorem test_witness_StepKeepsTheImage : (∀ i, (demo.station i).Pictured) ∧ ∃ t, step demo = .next t :=
  ⟨demo_stations (by unfold Station.Pictured; decide +kernel) (by unfold Station.Pictured; decide +kernel), demo_steps⟩

/-- Whether a field of the page lies over the place of row `r` and column `c`. -/
def liesAt (x : FormInstance) (r c : Nat) (f : FieldRec) : Bool :=
  f.defn.page == x.page && f.defn.row == r && f.covers ((r - 1) * 80 + (c - 1))

/-- The last place of field 1, the place after it, and the stations that show no form. -/
theorem test_witness_StepKeepsTheImage_places :
    shown.state = .active ∧ shown.form = some fresh ∧ fresh.page ≤ 9 ∧ fresh.defn.pages ≤ 9 ∧
      (fresh.fields.filter (liesAt fresh 1 3)).map (fun f => (f.defn.number, f.content[2 - f.start]?)) =
        [(1, some blank)] ∧
      fresh.fields.filter (liesAt fresh 1 4) = [] ∧ fresh.fields.filter (liesAt fresh 23 80) = [] ∧
      Station.reset.state = .noForm ∧ ({ shown with state := .suspended } : Station).state = .suspended := by
  decide +kernel

theorem test_witness_StepKeepsStationStates : (∀ i, (demo.station i).Consistent) ∧ ∃ t, step demo = .next t :=
  ⟨demo_stations rfl ⟨rfl, rfl, rfl, rfl, rfl, rfl⟩, demo_steps⟩

/-- Station 0 is WAITING with its timer running, 16 items queued and 32 scanner errors. -/
def busy : State :=
  partOf
    { stationOf fresh with
      keyboard := .waiting
      timer := some 30
      queue := List.replicate 16 .reset
      line := { (stationOf fresh).line with scanErrors := 32, scanner := .suspended } }

theorem test_witness_StepKeepsQueuesTimersAndScanners :
    (∃ t, step busy = .next t) ∧ (busy.station 0).QueueSound ∧ (busy.station 0).TimerSound ∧
      (busy.station 0).ScannerSound ∧ Station.reset.QueueSound ∧ Station.reset.TimerSound ∧ Station.reset.ScannerSound ∧
      ∀ i, i ≠ 0 → busy.station i = Station.reset :=
  ⟨⟨_, rfl⟩, ⟨by decide +kernel, by decide +kernel⟩, by intro n h; cases h; decide +kernel, ⟨rfl, by decide +kernel⟩,
    ⟨by decide, by decide⟩, by intro n h; (cases h), ⟨show 0 < 32 by decide, by decide⟩, by decide +kernel⟩

theorem test_witness_StepKeepsPaintQueues : (∀ i, (demo.station i).line.QueueSound) ∧ ∃ t, step demo = .next t :=
  ⟨demo_stations (P := fun st => st.line.QueueSound) (by unfold LineUnit.QueueSound Span.OnScreen; decide +kernel)
    (by unfold LineUnit.QueueSound Span.OnScreen; decide +kernel), demo_steps⟩

/-- A line unit with `n` spans queued, one in each second place of row 3, and a repaint in progress next at
row 3. -/
def painting (n : Nat) : LineUnit :=
  { LineUnit.reset with
    repaintAll := false, repaint := some 3, paintQueue := (List.range n).map fun k => ⟨3, 4 * k + 2, 4 * k + 3⟩ }

theorem test_witness_StepKeepsPaintQueues_spans :
    LineUnit.reset.repaintAll = true ∧ (painting 2).repaint = some 3 ∧ 3 ≤ (⟨3, 1, 1⟩ : Span).row ∧
      (painting 2).repaintAll = false ∧ (⟨2, 1, 1⟩ : Span).row < 3 ∧
      (∀ q ∈ (painting 2).paintQueue, (⟨2, 1, 1⟩ : Span).touches q = false) ∧
      (painting 15).paintQueue.length = 15 ∧ (painting 16).paintQueue.length = 16 := by decide +kernel

theorem test_witness_StepKeepsPaintQueues_merging :
    ({ painting 2 with repaint := none } : LineUnit).repaintAll = false ∧ (⟨3, 4, 5⟩ : Span).first ≤ 5 ∧
      (∀ q ∈ (painting 2).paintQueue, q.first ≤ q.last) ∧
      (painting 2).paintQueue.Pairwise (fun p q => p.touches q = false) ∧
      (painting 2).paintQueue = [] ++ ⟨3, 2, 3⟩ :: [⟨3, 6, 7⟩] ∧ (⟨3, 4, 5⟩ : Span).touches ⟨3, 2, 3⟩ = true ∧
      (⟨3, 4, 5⟩ : Span).touches ⟨3, 6, 7⟩ = true := by decide +kernel

theorem test_witness_StepKeepsPaintQueues_images :
    (composeImage (stationOf fresh)).length = 24 ∧ (∀ row ∈ composeImage (stationOf fresh), row.length = 80) ∧
      (composeImage Station.reset).length = 24 ∧ ∀ row ∈ composeImage Station.reset, row.length = 80 := by
  decide +kernel

theorem shown_line :
    shown.line.DownSound ∧ shown.line.RepaintSound ∧ shown.EngineSound :=
  ⟨rfl, (by intro r h; cases h), fun _ _ => by decide +kernel⟩

theorem reset_line :
    Station.reset.line.DownSound ∧ Station.reset.line.RepaintSound ∧ Station.reset.EngineSound :=
  ⟨⟨rfl, rfl, rfl, rfl, rfl, rfl⟩, (by intro r h; cases h), fun h => by cases h⟩

theorem test_witness_StepKeepsThePaintEngine :
    (∀ i, (demo.station i).line.DownSound ∧ (demo.station i).line.RepaintSound ∧ (demo.station i).EngineSound) ∧
      ∃ t, step demo = .next t :=
  ⟨demo_stations (P := fun st => st.line.DownSound ∧ st.line.RepaintSound ∧ st.EngineSound) shown_line reset_line,
    demo_steps⟩

/-- Station 0 is settling, its repaint in progress. -/
def settling : Station :=
  { stationOf { fresh with settling := true } with
    line := { (stationOf fresh).line with inFlight := some .erase, repaint := some 1 } }

theorem test_witness_StepKeepsSettlingAnswered :
    settling.SettlingSound ∧ Station.reset.SettlingSound ∧ (∃ x, settling.form = some x ∧ x.settling = true) ∧
      ∃ t, step (partOf settling) = .next t :=
  ⟨by intro x h _; cases h; decide +kernel, by intro x h; (cases h), ⟨_, rfl, rfl⟩, _, rfl⟩

theorem library_sound : library.TablesSound ∧ library.RangesSound ∧ library.ActiveSound ∧ library.StagingSound :=
  ⟨by unfold Library.TablesSound Table.Sound; decide +kernel, by unfold Library.RangesSound; decide +kernel,
    by unfold Library.ActiveSound; decide +kernel, by unfold Library.StagingSound; decide +kernel⟩

theorem test_witness_StepKeepsTheLibrary :
    (demo.library.TablesSound ∧ demo.library.RangesSound ∧ demo.library.ActiveSound ∧ demo.library.StagingSound) ∧
      ∃ t, step demo = .next t := ⟨library_sound, demo_steps⟩

theorem fresh_sound : fresh.Sound :=
  ⟨by unfold FormInstance.CopySound; decide +kernel, by unfold FormInstance.FieldsSound; decide +kernel,
    by unfold FormInstance.PageSound; decide +kernel, by unfold FormInstance.CursorSound; decide +kernel⟩

theorem fresh_current : fresh.ResultsCurrent := by unfold FormInstance.ResultsCurrent; decide +kernel

theorem test_witness_StepKeepsFormInstances :
    demo.library.RangesSound ∧ demo.library.ActiveSound ∧ (∀ i, (demo.station i).FormSound) ∧
      ∃ t, step demo = .next t :=
  ⟨library_sound.2.1, library_sound.2.2.1, demo_stations (shown_form fresh_sound) reset_form, demo_steps⟩

/-- Field 2 of the instance, with and without an override, found by its number; no field has the number 9. -/
theorem test_witness_StepKeepsFormInstances_fields :
    (∃ f ∈ fresh.fields, f.override = none ∧ ({ f with override := some ⟨.fixed, true⟩ } : FieldRec).override.isSome = true) ∧
      (∀ f ∈ fresh.fields, f.defn.number ≠ 9) ∧
      ∃ f, fresh.fields = fresh.fields.take 1 ++ f :: fresh.fields.drop 2 ∧
        (∀ g ∈ fresh.fields.take 1, g.defn.number ≠ 2) ∧ f.defn.number = 2 :=
  ⟨⟨_, List.mem_cons_self, rfl, rfl⟩, by decide +kernel, _, rfl, by decide +kernel, rfl⟩

theorem test_witness_StepKeepsComputedFieldsCurrent :
    demo.library.RangesSound ∧ demo.library.ActiveSound ∧
      (∀ i, (demo.station i).FormSound ∧ (demo.station i).ResultsCurrent) ∧ ∃ t, step demo = .next t :=
  ⟨library_sound.2.1, library_sound.2.2.1,
    demo_stations (P := fun st => st.FormSound ∧ st.ResultsCurrent)
      ⟨shown_form fresh_sound, shown_form fresh_current⟩ ⟨reset_form, reset_form⟩, demo_steps⟩

/-- A SCAN of one station being answered, and an IDENTIFY behind it. -/
def scanning : HostLine :=
  { HostLine.reset with
    outstanding := 2
    polling := .scanning
    group := 1#8
    inTx := some ⟨7#8, .entry 0 true none, false, true, false⟩
    txQueue := [⟨7#8, .pollEnd 1, true, true, true⟩, answerFrame 8#8 (.accept .identify)] }

theorem test_witness_StepKeepsTheHostLine :
    scanning.Sound ∧ ∃ t, step { demo with host := scanning } = .next t :=
  ⟨by unfold HostLine.Sound HostLine.owed HostLine.frames; decide +kernel, _, rfl⟩

theorem test_witness_StepKeepsSrq : demo.events.Sound ∧ ∃ t, step demo = .next t :=
  ⟨by unfold EventUnit.Sound; decide +kernel, demo_steps⟩

theorem test_witness_RequestsDecodeFromTheirBytes :
    requestValid (.stage (.forms [(32, some smallForm), (1, none)])) = true ∧
      requestValid (.write 0xFF#8 ⟨true, true, true, some 255, some (96, 255), true, some .long,
        [⟨96, some ⟨.fixed, true⟩, tx "~ "⟩]⟩) = true := by decide +kernel

/-- R190, R192, R193: a byte left over, a bit that stands for nothing, a page without the PAGE option and a limit
without its presence bit do not decode. -/
theorem test_malformed_payloads_do_not_decode :
    decodeRequest 0x13#8 [0x24#8, 0x00#8] = none ∧ decodeRequest 0x04#8 [0x08#8] = none ∧
      decodeRequest 0x11#8 [0x01#8, 0x00#8, 0x01#8, 0x00#8, 0x00#8, 0x00#8, 0x00#8] = none ∧
      decodeRequest 0x01#8 ([0x02#8, 0x01#8, 0x01#8, 0x01#8, 0x01#8, 0x00#8, 0x00#8] ++ List.replicate 15 0x00#8 ++
        [0x01#8]) = none := by decide +kernel

theorem test_witness_FramesRunTheirRequests :
    requestFits (.stage (.forms [(32, some smallForm)])) = true ∧ demo.host.framer = .hunt ∧ demo.events.Sound :=
  ⟨by decide +kernel, rfl, by unfold EventUnit.Sound; decide +kernel⟩

/-- The part with its receive framer set. -/
def framed (f : Framer) : State := { demo with host := { HostLine.reset with framer := f } }

theorem test_witness_HostBytesMoveTheFramer :
    (framed .hunt).host.framer = .hunt ∧
      ((framed (.header 7#16 [1#8, 6#8])).host.framer = .header 7#16 [1#8, 6#8] ∧ [1#8, 6#8].length < 3) ∧
      ((framed (.header 7#16 [1#8, 2#8, 4#8])).host.framer = .header 7#16 [1#8, 2#8, 4#8] ∧
        256 * (4#8 : Byte).toNat + (0#8 : Byte).toNat ≤ 1024) ∧
      (framed (.payload 7#16 1#8 2#8 2 [4#8])).host.framer = .payload 7#16 1#8 2#8 2 [4#8] ∧
      (framed (.check 7#16 1#8 2#8 [] none)).host.framer = .check 7#16 1#8 2#8 [] none := by
  refine ⟨rfl, ⟨rfl, ?_⟩, ⟨rfl, ?_⟩, rfl, rfl⟩ <;> decide

/-- A frame of a HOLD whose last check byte is awaited, with `n` requests outstanding. -/
def checking (kind : Byte) (n : Nat) : State :=
  { demo with
    host := { HostLine.reset with framer := .check 0x3F#16 kind 7#8 [0x24#8] (some 0xFF#8), outstanding := n } }

theorem test_witness_FramesAreTested :
    1024 < 256 * (4#8 : Byte).toNat + (1#8 : Byte).toNat ∧
      (framed (.header 7#16 [1#8, 2#8, 4#8])).host.framer = .header 7#16 [1#8, 2#8, 4#8] ∧
      (∀ k n, (checking k n).host.framer = .check 0x3F#16 k 7#8 [0x24#8] (some 0xFF#8)) ∧
      0x3F#16 + halfOf 0xFF#8 0xC0#8 ≠ 0#16 ∧ 0x3F#16 + halfOf 0xFF#8 0xC1#8 = 0#16 ∧
      4 ≤ (checking 0x13#8 4).host.outstanding ∧ (checking 0x13#8 3).host.outstanding < 4 ∧
      decodeRequest 0x7F#8 [0x24#8] = none ∧ decodeRequest 0x13#8 [0x24#8] = some (.hold 0x24#8) ∧
      (requestBytes (.hold 0x24#8)).length ≤ 1024 := by
  refine ⟨by decide, rfl, fun _ _ => rfl, ?_⟩
  decide +kernel

/-- R193: the bytes of the settings that a STATION SET does not carry are not read. -/
theorem test_stationSet_ignores_settings_not_carried :
    decodeRequest 0x17#8 [0x01#8, 0x00#8, 0xFF#8, 0xFF#8, 0xFF#8, 0xFF#8, 0xFF#8, 0xFF#8] =
      some (.stationSet 0x01#8 ⟨none, none, none, none, none, none⟩) := by decide +kernel

theorem test_witness_ResponsesAreTransmittedInOrder :
    ({ demo with host := scanning } : State).host.inTx = some ⟨7#8, .entry 0 true none, false, true, false⟩ := rfl

theorem test_witness_ResponsesAreTransmittedInOrder_send :
    scanning.inTx.isSome = true ∧ HostLine.reset.inTx = none ∧
      HostLine.reset.txQueue ++ [answerFrame 8#8 (.pollEnd 0)] = answerFrame 8#8 (.pollEnd 0) :: [] := by decide +kernel

/-- The part with `n` requests outstanding. -/
def outstanding (n : Nat) : State := { demo with host := { HostLine.reset with outstanding := n } }

theorem test_witness_RequestsAreTurnedAway :
    4 ≤ (outstanding 4).host.outstanding ∧ (outstanding 3).host.outstanding < 4 ∧
      requestValid (.showForm 0#8 33 false) = false ∧ (requestBytes (.showForm 0#8 33 false)).length ≤ 1024 ∧
      requestValid (.hold 0#8) = true ∧ stationsOf (.hold 0#8) = some 0#8 ∧
      requestValid (.notice 1#8 none (List.replicate 41 blank)) = true ∧
      stationsOf (.notice 1#8 none (List.replicate 41 blank)) ≠ some 0#8 ∧
      overLength (.notice 1#8 none (List.replicate 41 blank)) = true ∧
      (requestBytes (.notice 1#8 none (List.replicate 41 blank))).length ≤ 1024 := by decide +kernel

/-- 64 staged entries. -/
def fullStaging : Library :=
  { library with
    stagedForms := (List.range 32).map fun n => (n + 1, none)
    stagedClasses := (List.range 31).map fun n => (n + 1, none)
    stagedRoutes := [(1, none)] }

theorem test_witness_StageLoadsEntries :
    loadValid (.routes [(2, none)]) = true ∧ (loadBytes (.routes [(2, none)])).length ≤ 1024 ∧
      (outstanding 3).host.outstanding < 4 ∧
      ({ library with locks := 0b100#3 } : Library).locked (loadKind (.routes [(2, none)])) = true ∧
      64 < (fullStaging.stageEntries (.routes [(2, none)])).staged ∧
      (fullStaging.stageEntries (.routes [(1, none)])).staged ≤ 64 := by decide +kernel

theorem test_witness_StagedEntriesStandForTheirNumbers : fullStaging.TablesSound := by
  unfold Library.TablesSound Table.Sound; decide +kernel

/-- The form of the tests with other fields and rules. -/
def formWith (fields : List FieldDef) (rules : List Rule) : FormDef :=
  { smallForm with initial := none, fields := fields, rules := rules }

/-- Two rules that feed each other. -/
def circle : List Rule := [⟨1, .sum, [4], 3, 0, false, false⟩, ⟨2, .sum, [3], 4, 0, false, false⟩]

/-- Rules without a cycle: the least number comes last. -/
def chain : List Rule := [⟨1, .sum, [4], 3, 0, false, false⟩, ⟨2, .sum, [1], 4, 0, false, false⟩]

theorem test_witness_view_offences :
    (digits.fold = false ∧ ({ digits with fold := true } : ClassDef).kind = .digits) ∧
      library.merged.classes = [] ++ (1, digits) :: [] ∧ formOffence library.classes smallForm = none ∧
      formOffence [] smallForm = some (.cls, 1) ∧
      FirstHolds
        [(∃ n, (some 2 : Option Nat) = some n ∧ lookupKey n library.merged.forms = none, Cause.formRef), (True, .routeField)]
        .formRef :=
  ⟨by decide, by decide, by decide +kernel, by decide +kernel, [], _, _, rfl, by simp, 2, rfl, by decide +kernel⟩

theorem test_witness_form_offences :
    (¬((formWith [fieldAt 1 1 1 1 1 .input 0, fieldAt 1 1 2 1 1 .input 0] []).fields.map FieldDef.number).Nodup) ∧
      (¬((formWith [] [⟨1, .sum, [1], 3, 0, false, true⟩, ⟨1, .sum, [1], 4, 0, false, true⟩]).rules.map Rule.number).Nodup) ∧
      (smallForm.fields.map FieldDef.number).Nodup ∧ (smallForm.rules.map Rule.number).Nodup ∧
      (∀ f ∈ smallForm.fields, ¬(f.number = 3 ∧ f.kind = .input ∧ f.page = 1)) ∧
      (∃ f ∈ smallForm.fields, f.number = 1 ∧ f.kind = .input ∧ f.page = 1) ∧
      FirstHolds
        [(2 < (fieldAt 9 2 1 80 2 .input 0).page, Cause.page),
          (80 < (fieldAt 9 2 1 80 2 .input 0).column + (fieldAt 9 2 1 80 2 .input 0).length - 1, .place)] .place ∧
      FirstHolds
        [(∃ n ∈ [3], ∀ f ∈ smallForm.fields, f.number ≠ n, Cause.source),
          (∃ n ∈ [3], ∃ f ∈ smallForm.fields, f.number = n ∧ f.kind ≠ .input, .source)] .source :=
  ⟨by decide, by decide, by decide, by decide, by decide, by decide, ⟨[_], _, [], rfl, by simp [fieldAt], by decide⟩,
    [_], _, [], rfl, by simp [smallForm, fieldAt], by decide⟩

/-- That the target of one rule is a source of another, both of the list. -/
def feeds (rules : List Rule) (a b : Rule) : Prop := a ∈ rules ∧ b ∈ rules ∧ a.target ∈ b.sources

theorem test_witness_rules_on_a_cycle :
    Relation.TransGen (feeds circle) ⟨1, .sum, [4], 3, 0, false, false⟩ ⟨1, .sum, [4], 3, 0, false, false⟩ ∧
      ∀ q ∈ circle, 1 ≤ q.number :=
  ⟨.tail (.single (b := ⟨2, .sum, [3], 4, 0, false, false⟩) ⟨by decide, by decide, by decide⟩)
    ⟨by decide, by decide, by decide⟩, by decide⟩

theorem chain_climbs {a b : Rule} (h : Relation.TransGen (feeds chain) a b) : b.target < a.target := by
  have step : ∀ a ∈ chain, ∀ b ∈ chain, a.target ∈ b.sources → b.target < a.target := by decide
  induction h with
  | single h => exact step _ h.1 _ h.2.1 h.2.2
  | tail _ h ih => exact (step _ h.1 _ h.2.1 h.2.2).trans ih

theorem test_witness_rules_without_a_cycle :
    (chain.map Rule.number).Nodup ∧ (∀ r ∈ chain, ¬Relation.TransGen (feeds chain) r r) ∧
      computationOrder chain = [] ++ 2 :: [1] ∧ (∀ q ∈ chain, q.target ∈ [1] → q.number ∈ ([] : List Nat)) :=
  ⟨by decide, fun _ _ h => Nat.lt_irrefl _ (chain_climbs h), by decide, by decide⟩

theorem test_witness_DiscardAndLock : (outstanding 3).host.outstanding < 4 := by decide

/-- One remove marker staged: for a route number that no active route has. -/
def oneStaged : Library := { library with stagedRoutes := [(16, none)] }

theorem test_witness_CommitInstallsTheMergedView :
    (outstanding 3).host.outstanding < 4 ∧ library.staged = 0 ∧ oneStaged.staged ≠ 0 ∧ oneStaged.sum + 1#16 ≠ 0#16 ∧
      oneStaged.sum + 0#16 = 0#16 ∧ ({ oneStaged with locks := 0b100#3 } : Library).locks.getLsbD 2 = true ∧
      oneStaged.stagedRoutes ≠ [] ∧ oneStaged.merged.offence = none ∧ oneStaged.merged.fieldTotal ≤ 1024 ∧
      ({ oneStaged with stagedForms := [(1, none)] } : Library).merged.offence.isSome = true := by decide +kernel

theorem test_witness_ShowBuildsAnInstance :
    (0x80#8 : StationSet) ≠ 0#8 ∧ (outstanding 3).host.outstanding < 4 ∧ (0x01#8 : StationSet).getLsbD 0 = true ∧
      (demo.station 0).state ≠ .suspended ∧ (lookupKey 1 demo.library.forms).isSome = true ∧
      (lookupKey 32 demo.library.forms).isSome = false ∧ smallForm.initial = some 1 ∧
      (fresh.field? 1).isSome = true := by decide +kernel

/-- A WRITE that turns to the form's last page, places the cursor there, updates a field and restores. -/
def fullWrite : WriteOrder := ⟨true, true, true, some 2, some (4, 255), true, some .short, [⟨4, none, tx "XYZ"⟩]⟩

theorem test_witness_WriteChangesTheInstance :
    writeValid fullWrite = true ∧ overLength (.write 1#8 fullWrite) = false ∧
      (requestBytes (.write 1#8 fullWrite)).length ≤ 1024 ∧ (outstanding 3).host.outstanding < 4 ∧
      (demo.station 0).state ≠ .noForm ∧ (demo.station 0).form = some fresh ∧
      fullWrite.page.getD 0 ≤ fresh.defn.pages ∧ badCursor fullWrite fresh = false ∧
      (fresh.field? 4).isSome = true := by decide +kernel

theorem test_witness_UpdatesAreSkippedOrApplied :
    (keyed.field? 96).isNone = true ∧ (keyed.field? 3).any keyed.isComputed = true ∧
      ((keyed.field? 1).any fun f => !keyed.isComputed f && f.kind == .input && f.touched) = true ∧
      ((keyed.field? 2).any fun f => !keyed.isComputed f && !f.touched) = true := by decide +kernel

theorem test_witness_NoticeHoldAndRelease :
    textValid 0 40 (List.replicate 40 blank) = true ∧ (outstanding 3).host.outstanding < 4 ∧
      (demo.station 0).holdsForm = true ∧ (demo.station 1).holdsForm = false := by decide +kernel

theorem test_witness_PageTurnsTheInstance :
    (1 : Nat) ≤ 2 ∧ 2 ≤ fresh.defn.pages ∧ (outstanding 3).host.outstanding < 4 ∧ (demo.station 0).state ≠ .noForm ∧
      (demo.station 0).form = some fresh ∧ fresh.defn.pages < 255 := by decide +kernel

theorem test_witness_RereadComposesAnEntry :
    (outstanding 3).host.outstanding < 4 ∧ (demo.station 0).state = .active ∧ (demo.station 0).form = some fresh ∧
      (demo.station 0).slot = none := by decide +kernel

theorem test_witness_StationSetChangesSettings :
    (255 : Nat) ≤ 255 ∧ (outstanding 3).host.outstanding < 4 ∧ (demo.station 1).state ≠ .active ∧
      (0x02#8 : StationSet).getLsbD (1 : StationId).val = true := by decide +kernel

theorem test_witness_StationResetEmptiesTheStation :
    (0x01#8 : StationSet) ≠ 0#8 ∧ (outstanding 3).host.outstanding < 4 ∧
      (0x01#8 : StationSet).getLsbD (0 : StationId).val = true ∧
      ((demo.station 0).line.up = true ∧ (demo.station 0).line.inFlight = none) ∧
      (demo.station 1).line.up = false := by decide +kernel

/-- Station 0 is SUSPENDED, WAITING, with its instance. -/
def sleeping : Station := { stationOf fresh with state := .suspended, keyboard := .waiting }

theorem test_witness_SuspendAndResume :
    (outstanding 3).host.outstanding < 4 ∧ ((partOf sleeping).station 0).state = .suspended ∧
      ((partOf sleeping).station 0).form = some fresh ∧ (demo.station 0).state ≠ .suspended ∧
      (demo.station 0).slot = none ∧ (demo.station 0).attention = false ∧ demo.events.stationFlags[0] = 0#8 ∧
      ((partOf { Station.reset with state := .suspended }).station 0).form = none := by decide +kernel

/-- Stations 0 and 3 have attention. -/
def waiting : State := (demo.setStation 0 { shown with attention := true }).setStation 3 { shown with attention := true }

theorem test_witness_PollScanCollectsTheGroup :
    (0xFF#8 : StationSet) ≠ 0#8 ∧ waiting.host.outstanding < 4 ∧ waiting.host.polling = .idle ∧
      scanning.polling = .scanning ∧
      ((members 0xFF#8).filter fun i => (waiting.station i).slot.isSome || (waiting.station i).attention) = [0, 3] := by
  decide +kernel

theorem test_witness_PollNextServesInTurn :
    (0x09#8 : StationSet) ≠ 0#8 ∧ waiting.host.outstanding < 4 ∧ waiting.host.polling = .idle ∧
      ((members 0x09#8).headD 0 : StationId) = 0 ∧
      ((0x09#8 : StationSet).getLsbD (3 : StationId).val = true ∧ (waiting.station 3).attention = true) ∧
      (∀ j : StationId, ((0x09#8 : StationSet).getLsbD j.val = true ∧
        ((waiting.station j).slot.isSome = true ∨ (waiting.station j).attention = true)) →
          (3 + 7 - 0) % 8 ≤ (j.val + 7 - 0) % 8) ∧
      ∀ j : StationId, ¬((0x09#8 : StationSet).getLsbD j.val = true ∧
        ((demo.station j).slot.isSome = true ∨ (demo.station j).attention = true)) := by decide +kernel

theorem test_witness_StatusChangesNothing : (outstanding 3).host.outstanding < 4 := by decide

theorem test_witness_EnableEventsClearsDisabledKinds : (outstanding 3).host.outstanding < 4 := by decide

theorem test_witness_ClearEventsHoldsSrqOff :
    (outstanding 3).host.outstanding < 4 ∧
      ({ demo with events := { EventUnit.reset with holdOff := some 200 } } : State).events.holdOff.isSome = true := by
  decide

theorem test_witness_PartResetResetsEveryBlock : (outstanding 3).host.outstanding < 4 := by decide

theorem test_witness_KeysJoinTheQueue :
    keyItem 0x20#8 = some (.char 0x20#8) ∧ keyItem 0xBE#8 = some (.intent .clear) ∧
      (busy.station 0).state = .active ∧ (busy.station 0).queue.length = 16 ∧ (demo.station 0).joins = true ∧
      (demo.station 0).line.up = true ∧ (demo.station 1).line.up = false := by decide +kernel

/-- Both kinds of line that the messages of KEY, SCAN, ATTN and ALIVE may find. -/
theorem test_witness_lines_heard : (demo.station 0).line.DownSound ∧ (demo.station 1).line.DownSound :=
  ⟨shown_line.1, reset_line.1⟩

theorem test_witness_ScansAreCounted :
    scanFits true (List.replicate 48 0x7E#8) = true ∧ scanFits false [] = true := by decide +kernel

theorem test_witness_DamagedMessagesAreCounted :
    (demo.station 0).line.receiver = .waiting ∧
      (∀ b ∈ ([⟨0x1F#8, true, true⟩, ⟨0x00#8, false, false⟩] : List LineByte), b.value ≠ 0x1E#8) ∧
      ([0x41#8] : List Byte).length = (0x01#8 : Byte).toNat ∧ ([] : List Byte).length = (0x00#8 : Byte).toNat ∧
      (∃ b ∈ ([⟨0x1E#8, true, true⟩] : List LineByte), b.parity = true) ∧
      (¬∃ b ∈ ([⟨0x1E#8, false, true⟩] : List LineByte), b.parity = true) ∧
      (∃ b ∈ ([⟨0x1E#8, false, true⟩] : List LineByte), b.framing = true) ∧ (0x1E#8 : Byte) ≠ 0x1F#8 ∧
      decodeUpstream 0x01#8 [0x80#8, 0x81#8] = none ∧ keyItem 0x41#8 = some (.char 0x41#8) ∧
      scanFits true (tx "A") = true ∧ scanFits false [] = true := by decide +kernel

theorem test_witness_SilenceTakesTheLineDown : (demo.station 0).line.silence.isSome = true := by decide +kernel

/-- Station 0 with a cursor message in flight, and its line unit changed. -/
def sending (f : LineUnit → LineUnit) : Station :=
  { shown with line := f { shown.line with inFlight := some (.cursor 1 1) } }

/-- Whether the hypotheses of the end of a downstream message hold of a station. -/
def sendingMeets (st : Station) : Bool :=
  st.line.inFlight.isSome && st.line.up && decide (st.image = composeImage st) && st.line.repaint.all (· ≤ 25)

theorem test_witness_TransmissionCompleteSendsTheNext :
    sendingMeets (sending fun l => { l with tone := some .long }) = true ∧
      sendingMeets (sending fun l => { l with repaint := some 24 }) = true ∧
      sendingMeets (sending fun l => { l with repaint := some 25, repaintAll := true }) = true ∧
      sendingMeets (sending fun l => { l with paintQueue := [⟨1, 1, 80⟩, ⟨24, 2, 9⟩] }) = true ∧
      sendingMeets (sending fun l => { l with paintQueue := [⟨1, 1, 80⟩] }) = true ∧
      sendingMeets (sending fun l => { l with lastCursor := some 1839 }) = true ∧
      sendingMeets (sending id) = true := by decide +kernel

/-- A span over places of two renditions, and one of the last place alone, of an image of 24 rows of 80 places. -/
theorem test_witness_TransmissionCompleteSendsTheNext_paint :
    (composeImage (stationOf fresh)).length = 24 ∧ (∀ row ∈ composeImage (stationOf fresh), row.length = 80) ∧
      (⟨1, 3, 4⟩ : Span).OnScreen ∧ (⟨24, 80, 80⟩ : Span).OnScreen ∧
      (paintOf (composeImage (stationOf fresh)) ⟨1, 3, 4⟩) =
        .paint 1 3 (tx "  ") ([] ++ (.underline, 1) :: (.normal, 1) :: []) ∧
      shown.state = .active ∧ shown.form = some fresh ∧ Station.reset.state ≠ .active := by
  unfold Span.OnScreen
  decide +kernel

/-- A line unit that is UP with nothing in flight, changed so that each order of R164 is the first that applies. -/
def idleLine (f : LineUnit → LineUnit) : Bool :=
  let l := f { LineUnit.reset with up := true, repaintAll := false, lastCursor := some 0 }
  l.up && l.inFlight.isNone

theorem test_witness_TransmissionCompleteSendsTheNext_engine :
    LineUnit.reset.up = false ∧ (sending id).line.inFlight.isSome = true ∧
      idleLine (fun l => { l with tone := some .short, repaint := some 24 }) = true ∧
      idleLine (fun l => { l with repaint := some 24 }) = true ∧ idleLine (fun l => { l with repaintAll := true }) = true ∧
      idleLine (fun l => { l with paintQueue := [⟨1, 1, 80⟩, ⟨24, 2, 9⟩] }) = true ∧
      idleLine (fun l => { l with paintQueue := [⟨1, 1, 80⟩] }) = true ∧
      idleLine (fun l => { l with lastCursor := none }) = true ∧ idleLine id = true := by decide +kernel

theorem test_witness_ResponseTimerExpires : (busy.station 0).timer.isSome = true := by decide +kernel

/-- An item is taken in FREE by the station of the tests, on an instance that is not settling. -/
theorem takes (x : FormInstance) (it : Item) (h : x.settling = false) : (partOf (holding x it)).Takes 0 x it [] :=
  ⟨rfl, rfl, rfl, rfl, h⟩

/-- The instance with insert mode on, the cursor in its SKIP field. -/
def inserting (content : List Byte) (cursor : Nat) : FormInstance :=
  { fresh.edit 1 content fun _ => none with insert := true, cursor := cursor }

theorem test_witness_CharactersAreEntered :
    (partOf (holding { fresh with cursor := 1839 } (.char 0x31#8))).Takes 0 { fresh with cursor := 1839 } (.char 0x31#8) [] ∧
      ({ fresh with cursor := 1839 } : FormInstance).inputAtCursor.isNone = true ∧
      admits (some digits) false (tx "   ") 0 0x41#8 = false ∧
      (admits (some digits) true (tx "123") 0 0x31#8 = true ∧
        ((inserting (tx "123") 0).field? 1).any FieldRec.hasRoom = false) ∧
      (admits (some digits) true (tx "12 ") 2 0x31#8 = true ∧
        ((inserting (tx "12 ") 2).inputAtCursor.any fun f =>
          f.hasRoom && f.defn.skip && decide ((inserting (tx "12 ") 2).cursor - f.start + 1 = f.defn.length)) = true) ∧
      (2 : Nat) < (tx "12 ").length :=
  ⟨takes _ _ (by decide +kernel), by decide +kernel⟩

theorem test_witness_EditKeysChangeContents :
    (partOf (holding keyed (.edit .delete))).Takes 0 keyed (.edit .delete) [] ∧
      (partOf (holding { fresh with cursor := 0 } (.edit .backspace))).Takes 0 { fresh with cursor := 0 }
        (.edit .backspace) [] ∧
      keyed.inputAtCursor.isSome = true ∧ ({ fresh with cursor := 1839 } : FormInstance).inputAtCursor.isNone = true ∧
      (keyed.inputAtCursor.any fun f => f.covers 1839) = false ∧
      (({ keyed with cursor := 1 } : FormInstance).inputAtCursor.any fun f => f.covers 0) = true :=
  ⟨takes _ _ (by decide +kernel), takes _ _ (by decide +kernel), by decide +kernel⟩

theorem test_witness_CursorKeysMoveAndWrap :
    (partOf (holding { fresh with cursor := 1839 } (.move .right))).Takes 0 { fresh with cursor := 1839 } (.move .right) [] ∧
      (partOf (holding { fresh with cursor := 79 } (.move .up))).Takes 0 { fresh with cursor := 79 } (.move .up) [] ∧
      (partOf (holding { fresh with cursor := 1760 } (.move .down))).Takes 0 { fresh with cursor := 1760 } (.move .down) [] ∧
      (partOf (holding { fresh with cursor := 0 } (.move .left))).Takes 0 { fresh with cursor := 0 } (.move .left) [] :=
  ⟨takes _ _ (by decide +kernel), takes _ _ (by decide +kernel), takes _ _ (by decide +kernel),
    takes _ _ (by decide +kernel)⟩

theorem test_witness_exit_checks :
    (fresh.edit 1 (tx "1 2") fun _ => none).departure (fun f => f.covers 3) = some (1, .format) ∧
      fresh.departure (fun f => f.covers 3) = none ∧
      (fresh.inputAtCursor.map (·.defn.number)) = some 1 ∧
      (∀ f ∈ fresh.fields, ∀ g ∈ fresh.fields, f.defn.page = 1 → g.defn.page = 1 → f.covers 0 = true →
        g.covers 0 = true → g.defn.number = f.defn.number) := by decide +kernel

/-- The instance with no input field left on its page. -/
def ringless : FormInstance := { fresh with page := 3 }

theorem test_witness_RingKeysMove :
    (∀ it, (partOf (holding fresh it)).Takes 0 fresh it []) ∧ (∀ it, (partOf (holding ringless it)).Takes 0 ringless it []) ∧
      ringless.ring = [] ∧ fresh.ring.map (·.start) = [0, 80] ∧ fresh.ring.map (·.defn.row) = [1, 2] ∧
      fresh.cursor = 0 ∧ (fresh.inputAtCursor.map (·.start)) = some 0 ∧
      (({ fresh with cursor := 2 } : FormInstance).inputAtCursor.map (·.start)) = some 0 ∧
      ({ fresh with cursor := 83 } : FormInstance).inputAtCursor.isNone = true :=
  ⟨fun _ => takes _ _ (by decide +kernel), fun _ => takes _ _ (by decide +kernel), by decide +kernel⟩

/-- The instance on a form of one page without a cycle. -/
def alone : FormInstance := { fresh with defn := { smallForm with pages := 1, cycle := false } }

theorem test_witness_PageKeysSwitch :
    (partOf (holding fresh (.move .pageNext))).Takes 0 fresh (.move .pageNext) [] ∧
      (partOf (holding fresh (.move .pagePrior))).Takes 0 fresh (.move .pagePrior) [] ∧
      (partOf (holding alone (.move .pageNext))).Takes 0 alone (.move .pageNext) [] ∧
      (partOf (holding alone (.move .pagePrior))).Takes 0 alone (.move .pagePrior) [] ∧
      (alone.defn.pages = alone.page ∧ alone.page = 1 ∧ alone.defn.cycle = false) ∧
      (partOf (holding alone (.move .pageNext))).station 0 = holding alone (.move .pageNext) ∧
      ((holding alone (.move .pageNext)).line.up = true ∧ (holding alone (.move .pageNext)).settings.tone = true) ∧
      fresh.departure (fun _ => false) = none ∧
      (fresh.edit 1 (tx "1 2") fun _ => none).departure (fun _ => false) = some (1, .format) :=
  ⟨takes _ _ (by decide +kernel), takes _ _ (by decide +kernel), takes _ _ (by decide +kernel),
    takes _ _ (by decide +kernel), by decide +kernel⟩

theorem test_witness_ResetFreesTheKeyboard :
    ((partOf { holding fresh .reset with keyboard := .timedOut }).station 0).state = .active ∧
      ((partOf { holding fresh .reset with keyboard := .timedOut }).station 0).form = some fresh ∧
      ((partOf { holding fresh .reset with keyboard := .timedOut }).station 0).queue = .reset :: [] ∧
      fresh.settling = false ∧
      ((partOf { holding fresh .reset with keyboard := .timedOut }).station 0).keyboard = .timedOut :=
  ⟨rfl, rfl, rfl, by decide +kernel, rfl⟩

/-- Station 0 is INHIBITED with a character queued, its image composed. -/
def inhibited : Station :=
  { holding fresh (.char 0x41#8) with
    keyboard := .inhibited .prot
    image := composeImage { holding fresh (.char 0x41#8) with keyboard := .inhibited .prot } }

theorem test_witness_ItemsAreDiscardedOutsideFree :
    inhibited.state = .active ∧ inhibited.form = some fresh ∧ inhibited.queue = .char 0x41#8 :: [] ∧
      fresh.settling = false ∧ inhibited.keyboard = .inhibited .prot ∧ Item.char 0x41#8 ≠ .reset ∧
      inhibited.image = composeImage inhibited ∧ inhibited.line.up = true ∧ inhibited.settings.tone = true := by
  decide +kernel

/-- The instance with a first field over its limit. -/
def tooLarge : FormInstance := fresh.edit 1 (tx "101") fun _ => none

theorem test_witness_FullSendsJudgeAndCompose :
    (partOf (holding keyed (.intent .enter))).Takes 0 keyed (.intent .enter) [] ∧ keyed.failing = [] ∧
      ((partOf (holding keyed (.intent .enter))).station 0).slot = none ∧
      keyed.defn.shortKeys.getLsbD (0 : Fin 12).val = false ∧
      (partOf (holding tooLarge (.intent (.function 0)))).Takes 0 tooLarge (.intent (.function 0)) [] ∧
      tooLarge.failing.map (·.2) = [.rangeHigh] ∧ (∀ c ∈ tx "   ", c = blank) ∧ ∃ c ∈ tx "1 2", c ≠ blank :=
  ⟨takes _ _ (by decide +kernel), by decide +kernel, rfl, by decide, takes _ _ (by decide +kernel), by decide +kernel⟩

theorem test_witness_ShortAndClearingSends :
    (partOf (holding tooLarge (.intent .cancel))).Takes 0 tooLarge (.intent .cancel) [] ∧
      ((partOf (holding tooLarge (.intent .cancel))).station 0).slot = none ∧
      tooLarge.defn.shortKeys.getLsbD (1 : Fin 12).val = true :=
  ⟨takes _ _ (by decide +kernel), rfl, by decide +kernel⟩

theorem test_witness_SendsToAnOccupiedSlotAreRefused :
    (partOf { holding keyed (.intent .clear) with slot := some (composeEntry 0 .reread true keyed) }).Takes 0 keyed
        (.intent .clear) [] ∧
      ((partOf { holding keyed (.intent .clear) with slot := some (composeEntry 0 .reread true keyed) }).station
        0).slot.isSome = true :=
  ⟨⟨rfl, rfl, rfl, rfl, by decide +kernel⟩, rfl⟩

theorem test_witness_ScansAreRouted :
    (partOf (holding fresh (.scan (tx "AXY")))).Takes 0 fresh (.scan (tx "AXY")) [] ∧
      (fresh.routed library.routes (tx "AXY")).map (fun p => (p.1.defn.number, p.2)) = some (2, tx "XY") ∧
      fresh.departure (fun g => g.defn.number == 2) = none ∧
      (partOf (holding fresh (.scan (tx "B")))).Takes 0 fresh (.scan (tx "B")) [] ∧
      fresh.routed library.routes (tx "B") = none ∧
      (fresh.edit 1 (tx "1 2") fun _ => none).departure (fun g => g.defn.number == 2) = some (1, .format) ∧
      ((∀ n, smallRoute.form = some n → n = fresh.number) ∧ smallRoute.length = 0 ∧
        smallRoute.pattern.length ≤ (tx "AXY").length) ∧
      library.routes = [] ++ (1, smallRoute) :: [] ∧
      (smallRoute.target ≠ 0 ∧ ((fresh.field? 2).map (·.kind)) = some .input ∧
        ((fresh.field? 3).map (·.kind)) = some .fixed) ∧
      (Act.start (stationOf fresh)).station.keyboard = .free ∧ inhibited.keyboard ≠ .free :=
  ⟨takes _ _ (by decide +kernel), by decide +kernel, by decide +kernel, takes _ _ (by decide +kernel),
    by decide +kernel, by decide +kernel, ⟨by decide +kernel, rfl, by decide⟩, rfl, by decide +kernel, rfl, by decide⟩

theorem test_witness_RescaleRoundsHalfAwayFromZero :
    (0 : Nat) < 1 ∧ 2 * (rescale (-25) 1 0 * 10 ^ (1 - 0) - (-25)).natAbs = 10 ^ (1 - 0) := by decide

theorem test_witness_operands :
    ((keyed.field? 1).map (·.defn.kind)) = some .input ∧
      ((keyed.field? 1).bind keyed.classOf) = some digits ∧ digits.kind = .digits ∧
      ((keyed.field? 3).map (·.defn.kind)) = some .fixed ∧
      keyed.defn.rules = [] ++ ⟨1, .sum, [1], 3, 0, false, true⟩ :: [] ∧
      ((keyed.field? 3).bind (·.result)) = some (.value 12) := by decide +kernel

/-- R90 to R93: a blank operand counts as 0 beside a value, and every operand comes to the largest places. -/
theorem test_results :
    rawResult .sum [.blank, .value 15 1, .value 2 0] = .number 35 1 ∧
      rawResult .sum [.blank, .blank] = .decided .blank ∧
      rawResult .difference [.overflow, .undefined] = .decided .undefined ∧
      rawResult .difference [.value 1 0, .overflow] = .decided .overflow ∧
      rawResult .difference [.value 1 0, .value 25 2] = .number 75 2 ∧
      rawResult .product [.value 3 1, .blank] = .decided .blank ∧
      rawResult .percent [.value 2406 2, .value 5 0] = .number 12030 4 := by decide +kernel

theorem test_witness_DisplaysReadBack : displayValue (-5) 4 7 = (.value (-5), tx "-0.0005") := by decide +kernel

end Sys2Proof.Tests
end

section
/-! The Form Library (chapter 1): what staging and merging do to tables keyed by number, what each request of the
library can leave it as, and the invariant that every step keeps. -/

namespace Sys2Proof.Machine

/-! ## Tables: what stands in them after staging and after merging (R9, R11, R15) -/

section Tables

variable {α : Type}

theorem mem_putKey {k : Nat} {v : α} {t : Table α} {e : Nat × α} (h : e ∈ putKey k v t) :
    e = (k, v) ∨ e ∈ t := by
  induction t with
  | nil => exact .inl (List.mem_singleton.mp h)
  | cons c t ih =>
    simp only [putKey] at h
    split at h
    · simpa using h
    · split at h
      · obtain h | h := List.mem_cons.mp h
        · exact .inl h
        · exact .inr (List.mem_cons_of_mem _ h)
      · obtain h | h := List.mem_cons.mp h
        · exact .inr (h ▸ List.mem_cons_self)
        · exact (ih h).imp_right (List.mem_cons_of_mem _)

/-- A record of the table after one staged entry stood there before, or is the entry's. -/
theorem mem_applyStaged {t : Table α} {s : Nat × Option α} {e : Nat × α} (h : e ∈ applyStaged t s) :
    e ∈ t ∨ s = (e.1, some e.2) := by
  obtain ⟨k, _ | v⟩ := s
  · exact .inl (List.mem_of_mem_filter h)
  · obtain rfl | h := mem_putKey h
    · exact .inr rfl
    · exact .inl h

/-- A record of a merged table is an active one or a staged one (R15). -/
theorem mem_merge {es : Table (Option α)} {t : Table α} {e : Nat × α} (h : e ∈ es.foldl applyStaged t) :
    e ∈ t ∨ (e.1, some e.2) ∈ es := by
  induction es generalizing t with
  | nil => exact .inl h
  | cons s es ih =>
    obtain h | h := ih h
    · exact (mem_applyStaged h).imp_right fun h => List.mem_cons.mpr (.inl h.symm)
    · exact .inr (List.mem_cons_of_mem _ h)

/-- An entry of a staged table stood there before, or is one of those staged (R11). -/
theorem mem_stageInto {es : List (Nat × Option α)} {t : Table (Option α)} {e : Nat × Option α}
    (h : e ∈ stageInto t es) : e ∈ t ∨ e ∈ es := by
  induction es generalizing t with
  | nil => exact .inl h
  | cons s es ih =>
    obtain h | h := ih h
    · exact (mem_putKey h).symm.imp_right fun h => List.mem_cons.mpr (.inl h)
    · exact .inr (List.mem_cons_of_mem _ h)

theorem stageInto_cons (t : Table (Option α)) (e : Nat × Option α) (es : List (Nat × Option α)) :
    stageInto t (e :: es) = stageInto (putKey e.1 e.2 t) es := rfl

theorem putKey_ne_nil (k : Nat) (v : α) (t : Table α) : putKey k v t ≠ [] := by
  have h : k ∈ (putKey k v t).map Prod.fst := (mem_keys_putKey k k v t).mpr (.inl rfl)
  rintro e
  simp [e] at h

theorem stageInto_ne_nil {t : Table (Option α)} {es : List (Nat × Option α)} (h : t ≠ [] ∨ es ≠ []) :
    stageInto t es ≠ [] := by
  induction es generalizing t with
  | nil => exact h.resolve_right (not_not_intro rfl)
  | cons e es ih => exact ih (.inl (putKey_ne_nil _ _ _))

/-- Staging keeps the canonical form of a staged table. -/
theorem Table.Sound.stageInto {top : Nat} {es : List (Nat × Option α)} {t : Table (Option α)}
    (h : Table.Sound top t) (keys : ∀ e ∈ es, 1 ≤ e.1 ∧ e.1 ≤ top) :
    Table.Sound top (stageInto t es) := by
  induction es generalizing t with
  | nil => exact h
  | cons e es ih =>
    obtain ⟨⟨lo, hi⟩, keys⟩ := List.forall_mem_cons.mp keys
    exact ih (h.putKey lo hi e.2) keys

/-- Merging keeps the canonical form. -/
theorem Table.Sound.merge {top : Nat} {es : Table (Option α)} {t : Table α} (h : Table.Sound top t)
    (hes : Table.Sound top es) : Table.Sound top (es.foldl Machine.applyStaged t) := by
  have keys : ∀ e ∈ es, 1 ≤ e.1 ∧ e.1 ≤ top := fun e he => hes.2 _ (List.mem_map_of_mem he)
  clear hes
  induction es generalizing t with
  | nil => exact h
  | cons e es ih =>
    obtain ⟨⟨lo, hi⟩, keys⟩ := List.forall_mem_cons.mp keys
    exact ih (h.applyStaged lo hi) keys

/-- Records changed under their keys keep the canonical form. -/
theorem Table.Sound.mapRecords {β : Type} {top : Nat} {t : Table α} (h : Table.Sound top t) (f : α → β) :
    Table.Sound top (t.map fun e => (e.1, f e.2)) := by
  unfold Table.Sound
  rw [show (t.map fun e => (e.1, f e.2)).map Prod.fst = t.map Prod.fst by simp]
  exact h

theorem Table.Sound.nil (top : Nat) : Table.Sound top ([] : Table α) := by simp [Table.Sound]

theorem entriesValid_iff {top : Nat} {valid : α → Bool} {es : List (Nat × Option α)} :
    entriesValid top valid es = true ↔
      (1 ≤ es.length ∧ es.length ≤ 255) ∧ ∀ e ∈ es, (1 ≤ e.1 ∧ e.1 ≤ top) ∧ e.2.all valid = true := by
  simp [entriesValid, inRange]

end Tables

/-! ## What the requests of the library can leave it as (R11, R14) -/

/-- STAGE changes nothing, or stages its entries, of which there are then at most 64 (R9, R11). -/
theorem Library.stage_cases (l : Library) (load : StageLoad) (payload : List Byte) :
    (l.stage load payload).1 = l ∨
      (l.stageEntries load).staged ≤ Config.stagingCapacity ∧
        (l.stage load payload).1 = { l.stageEntries load with sum := l.sum + byteSum payload } := by
  unfold Library.stage
  split
  · exact .inl rfl
  · split
    · exact .inl rfl
    · next h => exact .inr ⟨Nat.le_of_not_lt h, rfl⟩

/-- A COMMIT that is not refused has a merged view without an offence, within the field capacity (R14). -/
theorem Library.commitRefusal_none {l : Library} {check : Half} (h : l.commitRefusal check = none) :
    l.merged.offence = none ∧ l.merged.fieldTotal ≤ Config.fieldCapacity := by
  unfold Library.commitRefusal at h
  repeat' split at h
  all_goals try cases h
  next ho ht => exact ⟨ho, Nat.le_of_not_lt ht⟩

/-- COMMIT changes nothing, or installs a merged view that has passed the validation (R14, R22). -/
theorem Library.commit_cases (l : Library) (check : Half) :
    (l.commit check).1 = l ∨
      (l.merged.offence = none ∧ l.merged.fieldTotal ≤ Config.fieldCapacity) ∧
        (l.commit check).1 = l.install l.merged := by
  unfold Library.commit
  split
  · exact .inl rfl
  · next h => exact .inr ⟨Library.commitRefusal_none h, rfl⟩

/-- The active tables after a commit are the view that was installed. -/
theorem Library.install_view (l : Library) (v : View) : (l.install v).view = v := by
  simp [Library.install, Library.view, Function.comp_def]

/-! ## The invariant of the library -/

/-- The four invariants of the library together. -/
def Library.Sound (l : Library) : Prop :=
  l.TablesSound ∧ l.RangesSound ∧ l.ActiveSound ∧ l.StagingSound

theorem Library.sound_reset : Library.reset.Sound := by
  refine ⟨⟨.nil _, .nil _, .nil _, .nil _, .nil _, .nil _⟩, ?_, ?_, ?_⟩
  · simp [Library.RangesSound, Library.reset]
  · simp [Library.ActiveSound, Library.reset, Library.view, View.offence, View.classOffence, View.formOffence,
      View.routeOffence, View.fieldTotal]
  · simp [Library.StagingSound, Library.reset, Library.staged]

/-- Emptying the staging area leaves the active tables as they were. -/
theorem Library.Sound.emptyStaging {l : Library} (h : l.Sound) : l.emptyStaging.Sound := by
  obtain ⟨⟨hf, hc, hr, -, -, -⟩, ⟨rf, rc, rr, -, -, -⟩, active, -⟩ := h
  refine ⟨⟨hf, hc, hr, .nil _, .nil _, .nil _⟩, ⟨rf, rc, rr, ?_, ?_, ?_⟩, active, ?_⟩
  · simp [Library.emptyStaging]
  · simp [Library.emptyStaging]
  · simp [Library.emptyStaging]
  · simp [Library.emptyStaging, Library.StagingSound, Library.staged]

/-- The staged tables stay canonical and in range when valid entries are staged (R9, R10, R11). -/
theorem Library.stageEntries_tables {l : Library} {load : StageLoad} (valid : loadValid load = true)
    (tables : l.TablesSound) (ranges : l.RangesSound) :
    (l.stageEntries load).TablesSound ∧ (l.stageEntries load).RangesSound := by
  obtain ⟨hf, hc, hr, sf, sc, sr⟩ := tables
  obtain ⟨rf, rc, rr, qf, qc, qr⟩ := ranges
  cases load with
  | forms es =>
    have entries := (entriesValid_iff.mp valid).2
    exact ⟨⟨hf, hc, hr, sf.stageInto fun e he => (entries e he).1, sc, sr⟩, rf, rc, rr,
      fun e he => (mem_stageInto he).elim (qf e) fun he => (entries e he).2, qc, qr⟩
  | classes es =>
    have entries := (entriesValid_iff.mp valid).2
    exact ⟨⟨hf, hc, hr, sf, sc.stageInto fun e he => (entries e he).1, sr⟩, rf, rc, rr, qf,
      fun e he => (mem_stageInto he).elim (qc e) fun he => (entries e he).2, qr⟩
  | routes es =>
    have entries := (entriesValid_iff.mp valid).2
    exact ⟨⟨hf, hc, hr, sf, sc, sr.stageInto fun e he => (entries e he).1⟩, rf, rc, rr, qf, qc,
      fun e he => (mem_stageInto he).elim (qr e) fun he => (entries e he).2⟩

/-- Staging leaves the active tables. -/
theorem Library.stageEntries_active {l : Library} (load : StageLoad) (h : l.ActiveSound) :
    (l.stageEntries load).ActiveSound := by
  cases load <;> exact h

/-- A STAGE that decodes leaves something staged. -/
theorem Library.stageEntries_staged_pos (l : Library) {load : StageLoad} (valid : loadValid load = true) :
    0 < (l.stageEntries load).staged := by
  have nonempty {α : Type} {es : List (Nat × Option α)} (t : Table (Option α)) (h : 1 ≤ es.length) :
      0 < (stageInto t es).length :=
    List.length_pos_of_ne_nil (stageInto_ne_nil (.inr (List.ne_nil_of_length_pos h)))
  cases load with
  | forms es =>
    have := nonempty l.stagedForms (entriesValid_iff.mp valid).1.1
    simp only [Library.stageEntries, Library.staged]
    omega
  | classes es =>
    have := nonempty l.stagedClasses (entriesValid_iff.mp valid).1.1
    simp only [Library.stageEntries, Library.staged]
    omega
  | routes es =>
    have := nonempty l.stagedRoutes (entriesValid_iff.mp valid).1.1
    simp only [Library.stageEntries, Library.staged]
    omega

theorem Library.Sound.stage {l : Library} (h : l.Sound) {load : StageLoad} (payload : List Byte)
    (valid : loadValid load = true) : (l.stage load payload).1.Sound := by
  obtain he | ⟨room, he⟩ := l.stage_cases load payload
  · rw [he]; exact h
  · obtain ⟨tables, ranges, active, -⟩ := h
    obtain ⟨tables', ranges'⟩ := Library.stageEntries_tables valid tables ranges
    have pos := l.stageEntries_staged_pos valid
    rw [he]
    refine ⟨tables', ranges', Library.stageEntries_active load active, room, fun empty => ?_⟩
    have none_staged : (l.stageEntries load).staged = 0 := bne_eq_false_iff_eq.mp empty
    omega

/-- The merged view of a sound library is canonical and in its ranges (R1, R10, R15). -/
theorem Library.merged_tables {l : Library} (tables : l.TablesSound) (ranges : l.RangesSound) :
    (Table.Sound Config.forms l.merged.forms ∧ Table.Sound Config.classes l.merged.classes ∧
      Table.Sound Config.routes l.merged.routes) ∧
    (∀ e ∈ l.merged.forms, formValid e.2 = true) ∧ (∀ e ∈ l.merged.classes, classValid e.2 = true) ∧
      ∀ e ∈ l.merged.routes, routeValid e.2 = true := by
  obtain ⟨hf, hc, hr, sf, sc, sr⟩ := tables
  obtain ⟨rf, rc, rr, qf, qc, qr⟩ := ranges
  refine ⟨⟨(hf.mapRecords ActiveForm.defn).merge sf, hc.merge sc, hr.merge sr⟩, fun e he => ?_, fun e he => ?_,
    fun e he => ?_⟩
  · obtain he | he := mem_merge he
    · obtain ⟨a, ha, rfl⟩ := List.mem_map.mp he
      exact rf a ha
    · exact qf _ he
  · exact (mem_merge he).elim (rc e) (qc _)
  · exact (mem_merge he).elim (rr e) (qr _)

theorem Library.Sound.commit {l : Library} (h : l.Sound) (check : Half) : (l.commit check).1.Sound := by
  obtain he | ⟨⟨offence, total⟩, he⟩ := l.commit_cases check
  · rw [he]; exact h
  · obtain ⟨tables, ranges, -, -⟩ := h
    obtain ⟨⟨hf, hc, hr⟩, rf, rc, rr⟩ := Library.merged_tables tables ranges
    rw [he]
    refine ⟨⟨hf.mapRecords fun d => ActiveForm.mk d (computationOrder d.rules), hc, hr, .nil _, .nil _, .nil _⟩, ⟨fun e he => ?_, rc, rr, ?_, ?_, ?_⟩,
      ⟨?_, ?_, fun e he => ?_⟩, ?_⟩
    · obtain ⟨a, ha, rfl⟩ := List.mem_map.mp he
      exact rf a ha
    · simp [Library.install, Library.emptyStaging]
    · simp [Library.install, Library.emptyStaging]
    · simp [Library.install, Library.emptyStaging]
    · rw [Library.install_view]; exact offence
    · rw [Library.install_view]; exact total
    · obtain ⟨a, -, rfl⟩ := List.mem_map.mp he
      rfl
    · simp [Library.install, Library.emptyStaging, Library.StagingSound, Library.staged]

/-- Whatever a command does to the library, it stays sound. -/
theorem LibraryMove.sound {l m : Library} (move : LibraryMove l m) (h : l.Sound) : m.Sound := by
  cases move with
  | stays => exact h
  | power => exact Library.sound_reset
  | staged payload valid => exact h.stage payload valid
  | emptied => exact h.emptyStaging
  | committed check => exact h.commit check
  | locked kinds => exact h

/-- Settles O11: what a command can do to the library (`step_library`) keeps each of its invariants. -/
theorem stepKeepsTheLibrary : Obligations.StepKeepsTheLibrary :=
  fun _ _ tables ranges active staging h =>
    (step_library h).sound ⟨tables, ranges, active, staging⟩

end Sys2Proof.Machine
end

section
/-! The validation of a merged view (R16 to R20): what each check finds, which offence is the first, and what lies
on a cycle of the relation "feeds". -/

namespace Sys2Proof.Machine

/-! ## The lowest-numbered and the first that fails -/

section Lowest

variable {α β : Type} {key : α → Nat}

/-- In a list that ascends by key, the first element with an answer is the one of the lowest key. -/
theorem findSome?_of_ascending {g : α → Option β} {l : List α} (sorted : l.Pairwise fun a b => key a ≤ key b)
    (nodup : (l.map key).Nodup) {a : α} {b : β} (ha : a ∈ l) (hb : g a = some b)
    (lower : ∀ c ∈ l, key c < key a → g c = none) : l.findSome? g = some b := by
  induction l with
  | nil => cases ha
  | cons c l ih =>
    obtain ⟨hc, sorted⟩ := List.pairwise_cons.mp sorted
    obtain ⟨fresh, nodup⟩ := List.nodup_cons.mp nodup
    obtain rfl | ha := List.mem_cons.mp ha
    · rw [List.findSome?_cons, hb]
    · have lt : key c < key a :=
        lt_of_le_of_ne (hc a ha) fun e => fresh (List.mem_map.mpr ⟨a, ha, e.symm⟩)
      rw [List.findSome?_cons, lower c List.mem_cons_self lt]
      exact ih sorted nodup ha fun d hd => lower d (List.mem_cons_of_mem _ hd)

theorem pairwise_insertionSort (key : α → Nat) (l : List α) :
    (l.insertionSort fun a b => key a ≤ key b).Pairwise fun a b => key a ≤ key b :=
  @List.pairwise_insertionSort α (fun a b => key a ≤ key b) _ ⟨fun _ _ => Nat.le_total _ _⟩
    ⟨fun _ _ _ => Nat.le_trans⟩ l

/-- Examined in ascending order of distinct keys, the answer is that of the lowest key that has one. -/
theorem findSome?_insertionSort {g : α → Option β} {l : List α} (nodup : (l.map key).Nodup) {a : α} {b : β}
    (ha : a ∈ l) (hb : g a = some b) (lower : ∀ c ∈ l, key c < key a → g c = none) :
    (l.insertionSort fun a b => key a ≤ key b).findSome? g = some b := by
  have perm := List.perm_insertionSort (fun a b => key a ≤ key b) l
  exact findSome?_of_ascending (pairwise_insertionSort key l) ((perm.map key).nodup_iff.mpr nodup)
    (perm.mem_iff.mpr ha) hb fun c hc => lower c (perm.mem_iff.mp hc)

theorem findSome?_insertionSort_eq_none {g : α → Option β} {l : List α} :
    (l.insertionSort fun a b => key a ≤ key b).findSome? g = none ↔ ∀ a ∈ l, g a = none := by
  simp [List.findSome?_eq_none_iff, List.mem_insertionSort]

/-- The one found first in ascending order of keys has the lowest key of those that hold. -/
theorem find?_of_ascending {p : α → Bool} {l : List α} (sorted : l.Pairwise fun a b => key a ≤ key b) {a : α}
    (h : l.find? p = some a) {c : α} (hc : c ∈ l) (hp : p c = true) : key a ≤ key c := by
  induction l with
  | nil => cases hc
  | cons b l ih =>
    obtain ⟨hb, sorted⟩ := List.pairwise_cons.mp sorted
    rw [List.find?_cons] at h
    split at h
    · cases h
      obtain rfl | hc := List.mem_cons.mp hc
      · exact le_rfl
      · exact hb c hc
    · next hn =>
      obtain rfl | hc := List.mem_cons.mp hc
      · rw [hp] at hn; cases hn
      · exact ih sorted h hc

/-- The head of a list of numbers put in ascending order is the lowest of them. -/
theorem head?_insertionSort {l : List Nat} {n : Nat} (hn : n ∈ l) (low : ∀ m ∈ l, n ≤ m) :
    (l.insertionSort (· ≤ ·)).head? = some n := by
  have perm := List.perm_insertionSort (· ≤ ·) l
  have sorted := pairwise_insertionSort id l
  have hn := perm.mem_iff.mpr hn
  have low := fun m hm => low m (perm.mem_iff.mp hm)
  simp only [id] at sorted
  generalize l.insertionSort (· ≤ ·) = s at *
  cases s with
  | nil => cases hn
  | cons m s =>
    obtain rfl | hs := List.mem_cons.mp hn
    · rfl
    · exact congrArg some (le_antisymm ((List.pairwise_cons.mp sorted).1 n hs) (low m List.mem_cons_self))

end Lowest

/-! ## Tables of checks -/

/-- `o` is what the rows report: the first that holds, or nothing when none does. -/
def Reports (rows : List (Prop × Cause)) (o : Option Cause) : Prop :=
  (∀ c, FirstHolds rows c → o = some c) ∧ ((∀ row ∈ rows, ¬row.1) → o = none)

theorem Reports.cons_holds {p : Prop} {c : Cause} {rows : List (Prop × Cause)} (hp : p) :
    Reports ((p, c) :: rows) (some c) := by
  refine ⟨?_, fun h => absurd hp (h _ List.mem_cons_self)⟩
  rintro d ⟨a, q, b, e, before, -⟩
  cases a with
  | nil => cases e; rfl
  | cons r a => cases e; exact absurd hp (before _ List.mem_cons_self)

theorem Reports.cons_fails {p : Prop} {c : Cause} {rows : List (Prop × Cause)} {o : Option Cause} (hp : ¬p)
    (h : Reports rows o) : Reports ((p, c) :: rows) o := by
  refine ⟨?_, fun none => h.2 fun row hr => none row (List.mem_cons_of_mem _ hr)⟩
  rintro d ⟨a, q, b, e, before, hq⟩
  cases a with
  | nil => cases e; exact absurd hq hp
  | cons r a => cases e; exact h.1 d ⟨a, q, b, rfl, fun r hr => before r (List.mem_cons_of_mem _ hr), hq⟩

theorem Reports.nil : Reports [] none :=
  ⟨by rintro c ⟨a, q, b, e, -⟩; simp at e, fun _ => rfl⟩

/-- The first failing check reports its row when each check decides the row of its place. -/
theorem Reports.firstFailing {bad : List (Bool × Cause)} {rows : List (Prop × Cause)}
    (h : List.Forall₂ (fun b row => (b.1 = true ↔ row.1) ∧ b.2 = row.2) bad rows) :
    Reports rows (firstFailing bad) := by
  induction h with
  | nil => exact .nil
  | @cons b row bad rows hb _ ih =>
    obtain ⟨b, c⟩ := b
    obtain ⟨p, c'⟩ := row
    obtain ⟨hp, rfl⟩ : (b = true ↔ p) ∧ c = c' := hb
    cases b with
    | true => exact .cons_holds (hp.mp rfl)
    | false => exact .cons_fails (fun h => Bool.noConfusion (hp.mpr h)) ih

/-- A row whose condition has two parts reports what two rows of the parts do. -/
theorem Reports.split_or {p q : Prop} {c : Cause} {rows : List (Prop × Cause)} {o : Option Cause}
    (h : Reports ((p ∨ q, c) :: rows) o) : Reports ((p, c) :: (q, c) :: rows) o := by
  by_cases either : p ∨ q
  · obtain rfl := h.1 c ⟨[], _, rows, rfl, by simp, either⟩
    by_cases hp : p
    · exact .cons_holds hp
    · exact .cons_fails hp (.cons_holds (either.resolve_left hp))
  · refine .cons_fails (fun hp => either (.inl hp)) (.cons_fails (fun hq => either (.inr hq)) ⟨?_, ?_⟩)
    · rintro d ⟨a, r, b, rfl, before, hr⟩
      exact h.1 d ⟨(p ∨ q, c) :: a, r, b, rfl, List.forall_mem_cons.mpr ⟨either, before⟩, hr⟩
    · exact fun none => h.2 (List.forall_mem_cons.mpr ⟨either, none⟩)

theorem firstFailing_eq_none {rows : List (Bool × Cause)} :
    firstFailing rows = none ↔ ∀ row ∈ rows, row.1 = false := by
  induction rows with
  | nil => simp [firstFailing]
  | cons row rows ih =>
    obtain ⟨b, c⟩ := row
    cases b <;> simp [firstFailing, ih]

/-! ## Duplicated numbers (R18, log 9) -/

theorem mem_duplicated {ns : List Nat} {n : Nat} : n ∈ duplicated ns ↔ 1 < ns.count n := by
  simp only [duplicated, List.mem_insertionSort, List.mem_dedup, List.mem_filter, decide_eq_true_eq,
    and_iff_right_iff_imp]
  exact fun h => List.count_pos_iff.mp (by omega)

theorem duplicateItem_eq_none {ns : List Nat} : duplicateItem ns = none ↔ ns.Nodup := by
  have empty : duplicateItem ns = none ↔ duplicated ns = [] := by
    unfold duplicateItem; split <;> simp_all
  rw [empty, List.nodup_iff_count_le_one, List.eq_nil_iff_forall_not_mem]
  simp [mem_duplicated]

/-- The number that is named is one of the duplicated numbers. -/
theorem duplicateItem_count {ns : List Nat} {n : Nat} (h : duplicateItem ns = some n) : 1 < ns.count n := by
  rw [← mem_duplicated]
  unfold duplicateItem at h
  split at h
  · cases h
  · next e => cases h; rw [e]; exact List.mem_cons_self
  · next a b rest e =>
    have lt : Config.duplicateChoice ns % (rest.length + 2) < (a :: b :: rest).length := Nat.mod_lt _ (by simp)
    rw [List.getD_eq_getElem _ _ lt] at h
    cases h
    rw [e]; exact List.getElem_mem lt

theorem exists_duplicateItem {ns : List Nat} (h : ¬ns.Nodup) :
    ∃ n, 1 < ns.count n ∧ duplicateItem ns = some n := by
  cases e : duplicateItem ns with
  | none => exact absurd (duplicateItem_eq_none.mp e) h
  | some n => exact ⟨n, duplicateItem_count e, rfl⟩

/-! ## The relation "feeds" (R19) -/

/-- Rule `a` feeds rule `b`, both being rules of the form (R19). -/
def Feeds (rules : List Rule) (a b : Rule) : Prop := a ∈ rules ∧ b ∈ rules ∧ a.target ∈ b.sources

theorem rule_ext {rules : List Rule} (nodup : (rules.map Rule.number).Nodup) {a b : Rule} (ha : a ∈ rules)
    (hb : b ∈ rules) (h : a.number = b.number) : a = b :=
  List.inj_on_of_nodup_map nodup ha hb h

theorem feeds_iff {a b : Rule} : feeds a b = true ↔ a.target ∈ b.sources := by simp [feeds]

theorem mem_feedStep {rules : List Rule} {S : List Nat} {n : Nat} :
    n ∈ feedStep rules S ↔
      ∃ b ∈ rules, b.number = n ∧ (n ∈ S ∨ ∃ a ∈ rules, a.number ∈ S ∧ a.target ∈ b.sources) := by
  simp only [feedStep, feeds, List.mem_map, List.mem_filter, Bool.or_eq_true, List.contains_iff_mem, List.any_eq_true,
    Bool.and_eq_true]
  constructor
  · rintro ⟨b, ⟨hb, h⟩, rfl⟩; exact ⟨b, hb, rfl, h⟩
  · rintro ⟨b, hb, rfl, h⟩; exact ⟨b, ⟨hb, h⟩, rfl⟩

theorem feedStep_mono {rules : List Rule} {S T : List Nat} (h : S ⊆ T) : feedStep rules S ⊆ feedStep rules T := by
  intro n hn
  obtain ⟨b, hb, rfl, hs | ⟨a, ha, has, hab⟩⟩ := mem_feedStep.mp hn
  · exact mem_feedStep.mpr ⟨b, hb, rfl, .inl (h hs)⟩
  · exact mem_feedStep.mpr ⟨b, hb, rfl, .inr ⟨a, ha, h has, hab⟩⟩

theorem subset_feedStep {rules : List Rule} {S : List Nat} (h : S ⊆ rules.map Rule.number) :
    S ⊆ feedStep rules S := by
  intro n hn
  obtain ⟨b, hb, rfl⟩ := List.mem_map.mp (h hn)
  exact mem_feedStep.mpr ⟨b, hb, rfl, .inl hn⟩

theorem feedStep_subset_numbers (rules : List Rule) (S : List Nat) : feedStep rules S ⊆ rules.map Rule.number := by
  intro n hn
  obtain ⟨b, hb, rfl, -⟩ := mem_feedStep.mp hn
  exact List.mem_map_of_mem hb

theorem subset_reached {rules : List Rule} (k : Nat) {S : List Nat} (h : S ⊆ rules.map Rule.number) :
    S ⊆ reached rules k S := by
  induction k generalizing S with
  | zero => exact List.Subset.refl _
  | succ k ih => exact List.Subset.trans (subset_feedStep h) (ih (feedStep_subset_numbers rules S))

/-- A set of rule numbers from which "feeds" leads no further stays one. -/
theorem reached_closed_of_closed {rules : List Rule} (k : Nat) {S : List Nat} (h : feedStep rules S ⊆ S) :
    feedStep rules (reached rules k S) ⊆ reached rules k S := by
  induction k generalizing S with
  | zero => exact h
  | succ k ih => exact ih (feedStep_mono h)

/-- Each step adds a rule number until "feeds" leads no further, so as many steps as there are rules suffice. -/
theorem reached_closed {rules : List Rule} (k : Nat) {S : List Nat} (hS : S ⊆ rules.map Rule.number)
    (fuel : (rules.map Rule.number).toFinset.card ≤ k + S.toFinset.card) :
    feedStep rules (reached rules k S) ⊆ reached rules k S := by
  have sub {T U : List Nat} : T.toFinset ⊆ U.toFinset ↔ T ⊆ U := by simp [Finset.subset_iff, List.subset_def]
  induction k generalizing S with
  | zero =>
    have all : S.toFinset = (rules.map Rule.number).toFinset :=
      Finset.eq_of_subset_of_card_le (sub.mpr hS) (by simpa using fuel)
    exact List.Subset.trans (feedStep_subset_numbers rules S) (sub.mp all.ge)
  | succ k ih =>
    by_cases closed : feedStep rules S ⊆ S
    · exact reached_closed_of_closed (k + 1) closed
    · have grows : S.toFinset.card < (feedStep rules S).toFinset.card :=
        Finset.card_lt_card ⟨sub.mpr (subset_feedStep hS), fun h => closed (sub.mp h)⟩
      exact ih (feedStep_subset_numbers rules S) (by omega)

/-- Every number reached is that of a rule to which "feeds" leads from a rule of the set. -/
theorem exists_of_mem_reached {rules : List Rule} (nodup : (rules.map Rule.number).Nodup) (k : Nat) {S : List Nat}
    (hS : S ⊆ rules.map Rule.number) {n : Nat} (h : n ∈ reached rules k S) :
    ∃ a ∈ rules, ∃ b ∈ rules, a.number ∈ S ∧ b.number = n ∧ Relation.ReflTransGen (Feeds rules) a b := by
  induction k generalizing S with
  | zero =>
    obtain ⟨b, hb, rfl⟩ := List.mem_map.mp (hS h)
    exact ⟨b, hb, b, hb, h, rfl, .refl⟩
  | succ k ih =>
    obtain ⟨c, hc, b, hb, hcn, rfl, path⟩ := ih (feedStep_subset_numbers rules S) h
    obtain ⟨c', hc', e, hs | ⟨a, ha, has, feed⟩⟩ := mem_feedStep.mp hcn
    · exact ⟨c, hc, b, hb, hs, rfl, path⟩
    · obtain rfl := rule_ext nodup hc' hc e
      exact ⟨a, ha, b, hb, has, rfl, .head ⟨ha, hc, feed⟩ path⟩

/-- What lies downstream of changed fields: the rules to which "feeds" leads from a rule with such a source (R99). -/
theorem mem_downstream {rules : List Rule} (nodup : (rules.map Rule.number).Nodup) {changed : List Nat} {b : Rule}
    (hb : b ∈ rules) :
    b.number ∈ downstream rules changed ↔
      ∃ a ∈ rules, (∃ n ∈ a.sources, n ∈ changed) ∧ Relation.ReflTransGen (Feeds rules) a b := by
  have sources {n : Nat} : n ∈ (rules.filter fun r => r.sources.any fun n => changed.contains n).map Rule.number ↔
      ∃ a ∈ rules, (∃ m ∈ a.sources, m ∈ changed) ∧ a.number = n := by
    simp [List.mem_map, List.mem_filter, and_assoc]
  have numbers : (rules.filter fun r => r.sources.any fun n => changed.contains n).map Rule.number ⊆
      rules.map Rule.number := (List.filter_sublist.map _).subset
  unfold downstream
  constructor
  · intro h
    obtain ⟨a, ha, b', hb', hs, e, path⟩ := exists_of_mem_reached nodup _ numbers h
    obtain rfl := rule_ext nodup hb' hb e
    obtain ⟨a', ha', source, e⟩ := sources.mp hs
    obtain rfl := rule_ext nodup ha' ha e
    exact ⟨a', ha, source, path⟩
  · rintro ⟨a, ha, source, path⟩
    have closed := reached_closed rules.length numbers
      (le_add_right ((List.toFinset_card_le _).trans (by simp)))
    induction path with
    | refl => exact subset_reached _ numbers (sources.mpr ⟨a, ha, source, rfl⟩)
    | tail _ feed ih =>
      obtain ⟨hc, hd, feed⟩ := feed
      exact closed (mem_feedStep.mpr ⟨_, hd, rfl, .inr ⟨_, hc, ih hc, feed⟩⟩)

/-- A rule lies on a cycle when "feeds" leads from it back to it (R19). -/
theorem onCycle_iff {rules : List Rule} (nodup : (rules.map Rule.number).Nodup) {r : Rule} (hr : r ∈ rules) :
    onCycle rules r = true ↔ Relation.TransGen (Feeds rules) r r := by
  rw [onCycle, List.contains_iff_mem, mem_downstream nodup hr, Relation.TransGen.head'_iff]
  constructor
  · rintro ⟨a, ha, ⟨n, hn, he⟩, path⟩
    exact ⟨a, ⟨hr, ha, List.mem_singleton.mp he ▸ hn⟩, path⟩
  · rintro ⟨a, ⟨-, ha, feed⟩, path⟩
    exact ⟨a, ha, ⟨_, feed, List.mem_singleton.mpr rfl⟩, path⟩

theorem cycleItem_of_lowest {rules : List Rule} (nodup : (rules.map Rule.number).Nodup) {r : Rule} (hr : r ∈ rules)
    (cycle : Relation.TransGen (Feeds rules) r r)
    (lowest : ∀ q ∈ rules, Relation.TransGen (Feeds rules) q q → r.number ≤ q.number) :
    cycleItem rules = some r.number := by
  refine head?_insertionSort (List.mem_map_of_mem (List.mem_filter.mpr ⟨hr, (onCycle_iff nodup hr).mpr cycle⟩)) ?_
  intro n hn
  obtain ⟨q, hq, rfl⟩ := List.mem_map.mp hn
  obtain ⟨hq, hc⟩ := List.mem_filter.mp hq
  exact lowest q hq ((onCycle_iff nodup hq).mp hc)

theorem cycleItem_eq_none {rules : List Rule} (nodup : (rules.map Rule.number).Nodup) :
    cycleItem rules = none ↔ ∀ r ∈ rules, ¬Relation.TransGen (Feeds rules) r r := by
  have empty : cycleItem rules = none ↔ rules.filter (onCycle rules) = [] := by
    rw [cycleItem, List.head?_eq_none_iff, ← List.length_eq_zero_iff, List.length_insertionSort,
      List.length_eq_zero_iff, List.map_eq_nil_iff]
  rw [empty, List.filter_eq_nil_iff]
  exact forall₂_congr fun r hr => not_congr (onCycle_iff nodup hr)

end Sys2Proof.Machine
end

section
/-! The offences of a merged view (R16 to R20), each check by what it finds, and the statement that staged entries
stand for their numbers. -/

namespace Sys2Proof.Machine

/-! ## The classes and the routes (R17, R20) -/

/-- A class breaks a row of R17. -/
def ClassBroken (c : ClassDef) : Prop :=
  (c.places ≠ 0 ∧ c.kind ≠ .decimal) ∨ (c.signed = true ∧ c.kind ≠ .decimal) ∨
    ((c.low.isSome = true ∨ c.high.isSome = true) ∧ (c.kind = .text ∨ c.kind = .alpha)) ∨
    ((∃ n, (c.low = some n ∨ c.high = some n) ∧ n < 0) ∧ ¬(c.kind = .decimal ∧ c.signed = true)) ∨
    (∃ lo hi, c.low = some lo ∧ c.high = some hi ∧ hi < lo) ∨
    (c.fold = true ∧ (c.kind = .digits ∨ c.kind = .decimal))

theorem classBad_iff (c : ClassDef) : classBad c = true ↔ ClassBroken c := by
  obtain ⟨kind, places, signed, entry, fill, fold, low, high⟩ := c
  simp only [classBad, ClassBroken, Bool.or_eq_true, or_assoc]
  refine or_congr ?_ (or_congr ?_ (or_congr ?_ (or_congr ?_ (or_congr ?_ ?_))))
  · simp
  · simp
  · simp
  · have negative : (low.any (· < 0) || high.any (· < 0)) = true ↔ ∃ n, (low = some n ∨ high = some n) ∧ n < 0 := by
      simp [Option.any_eq_true, or_and_right, exists_or]
    rw [Bool.and_eq_true, negative]
    simp [-not_and, not_and_or]
  · cases low <;> cases high <;> simp
  · simp

/-- The rows of R20 for a route, in their order. -/
def routeRows (forms : Table FormDef) (r : RouteDef) : List (Prop × Cause) :=
  [(∃ n, r.form = some n ∧ lookupKey n forms = none, .formRef),
    (∃ n d, r.form = some n ∧ lookupKey n forms = some d ∧ r.target ≠ 0 ∧ ∀ f ∈ d.fields, f.number ≠ r.target,
      .routeField)]

theorem routeCause_reports (forms : Table FormDef) (r : RouteDef) :
    Reports (routeRows forms r) (routeCause forms r) := by
  unfold routeCause routeRows
  cases hf : r.form with
  | none => exact .cons_fails (by simp) (.cons_fails (by simp) .nil)
  | some n =>
    cases hd : lookupKey n forms with
    | none => simp only [hd]; exact .cons_holds ⟨n, rfl, hd⟩
    | some d =>
      refine .cons_fails (by simp [hd]) ?_
      simp only [hd]
      split
      · next h => exact .cons_holds ⟨n, d, rfl, hd, by simpa using h⟩
      · next h =>
        refine .cons_fails ?_ .nil
        rintro ⟨m, e, hm, he, h'⟩
        cases hm
        rw [hd] at he
        cases he
        exact h (by simpa using h')

/-! ## The fields of a form (R18) -/

/-- A field names a class of kind DIGITS or DECIMAL. -/
def NumericField (classes : Table ClassDef) (f : FieldDef) : Prop :=
  f.cls ≠ 0 ∧ ∃ c, lookupKey f.cls classes = some c ∧ (c.kind = .digits ∨ c.kind = .decimal)

theorem defClass_numeric {classes : Table ClassDef} {f : FieldDef} :
    (defClass classes f).any isNumeric = true ↔ NumericField classes f := by
  unfold defClass NumericField isNumeric
  split <;> simp_all [Option.any_eq_true]

/-- The rows of R18 for one field, in their order (log 10). -/
def fieldRows (classes : Table ClassDef) (d : FormDef) (f : FieldDef) : List (Prop × Cause) :=
  [(d.pages < f.page, .page), (80 < f.column + f.length - 1, .place),
    (∃ g ∈ d.fields, g.number ≠ f.number ∧ g.page = f.page ∧ g.row = f.row ∧ f.column < g.column + g.length ∧
      g.column < f.column + f.length, .overlap),
    ((f.kind = .input ∧ f.hidden = true) ∨ (f.kind = .fixed ∧ f.skip = true), .attr),
    (f.cls ≠ 0 ∧ lookupKey f.cls classes = none, .cls), (NumericField classes f ∧ 15 < f.length, .width),
    (f.length < f.default.length, .default)]

theorem any_overlap {d : FormDef} {f : FieldDef} :
    (d.fields.any fun g => g.number != f.number && overlap f g) = true ↔
      ∃ g ∈ d.fields, g.number ≠ f.number ∧ g.page = f.page ∧ g.row = f.row ∧ f.column < g.column + g.length ∧
        g.column < f.column + f.length := by
  simp only [List.any_eq_true, overlap, Bool.and_eq_true, bne_iff_ne, beq_iff_eq, decide_eq_true_eq, and_assoc]
  simp only [eq_comm (a := f.page), eq_comm (a := f.row)]

theorem fieldCause_reports (classes : Table ClassDef) (d : FormDef) (f : FieldDef) :
    Reports (fieldRows classes d f) (fieldCause classes d f) := by
  refine .firstFailing (.cons ⟨?_, rfl⟩ (.cons ⟨?_, rfl⟩ (.cons ⟨any_overlap, rfl⟩ (.cons ⟨?_, rfl⟩
    (.cons ⟨?_, rfl⟩ (.cons ⟨?_, rfl⟩ (.cons ⟨?_, rfl⟩ .nil)))))))
  · simp
  · simp
  · simp
  · simp [classMissing]
  · simp only [Bool.and_eq_true, defClass_numeric, decide_eq_true_eq]
  · simp

/-! ## The rules of a form (R19) -/

/-- The rows of R19 for one rule, in their order; the two ways in which a source fails follow each other. -/
def ruleRows (classes : Table ClassDef) (d : FormDef) (r : Rule) : List (Prop × Cause) :=
  [(∃ n ∈ r.sources, ∀ f ∈ d.fields, f.number ≠ n, .source),
    (∃ n ∈ r.sources, ∃ f ∈ d.fields, f.number = n ∧ ¬(f.kind = .input ∧ NumericField classes f) ∧
      ∀ q ∈ d.rules, q.target ≠ n, .source),
    (∀ f ∈ d.fields, ¬(f.number = r.target ∧ f.kind = .fixed), .target),
    (∃ q ∈ d.rules, q.number < r.number ∧ q.target = r.target, .dupTarget)]

theorem field_ext {d : FormDef} (nodup : (d.fields.map FieldDef.number).Nodup) {f g : FieldDef} (hf : f ∈ d.fields)
    (hg : g ∈ d.fields) (h : f.number = g.number) : f = g :=
  List.inj_on_of_nodup_map nodup hf hg h

/-- A source fails when no field has its number, or the one that has is neither numeric INPUT nor computed. -/
theorem sourceBad_iff {classes : Table ClassDef} {d : FormDef} (nodup : (d.fields.map FieldDef.number).Nodup)
    {n : Nat} :
    sourceBad classes d n = true ↔
      (∀ f ∈ d.fields, f.number ≠ n) ∨
        ∃ f ∈ d.fields, f.number = n ∧ ¬(f.kind = .input ∧ NumericField classes f) ∧ ∀ q ∈ d.rules, q.target ≠ n := by
  unfold sourceBad
  cases h : d.fields.find? fun f => f.number == n with
  | none => simpa using .inl (by simpa using h)
  | some f =>
    have hf := List.mem_of_find?_eq_some h
    have hn : f.number = n := by simpa using List.find?_some h
    have only : (∃ g ∈ d.fields, g.number = n ∧ ¬(g.kind = .input ∧ NumericField classes g) ∧
        ∀ q ∈ d.rules, q.target ≠ n) ↔
        ¬(f.kind = .input ∧ NumericField classes f) ∧ ∀ q ∈ d.rules, q.target ≠ n := by
      constructor
      · rintro ⟨g, hg, e, fails⟩
        obtain rfl := field_ext nodup hg hf (e.trans hn.symm)
        exact fails
      · exact fun fails => ⟨f, hf, hn, fails⟩
    have named : ¬∀ g ∈ d.fields, g.number ≠ n := fun h => h f hf hn
    rw [only, or_iff_right named, ← defClass_numeric]
    simp [-not_and, not_and_or]

theorem ruleCause_reports {classes : Table ClassDef} {d : FormDef} (nodup : (d.fields.map FieldDef.number).Nodup)
    (r : Rule) : Reports (ruleRows classes d r) (ruleCause classes d r) := by
  refine Reports.split_or (.firstFailing (.cons ⟨?_, rfl⟩ (.cons ⟨?_, rfl⟩ (.cons ⟨?_, rfl⟩ .nil))))
  · simp only [List.any_eq_true, sourceBad_iff nodup, and_or_left, exists_or]
  · simp
  · simp

/-! ## A form as a whole (R16, R18, R19) -/

theorem initialBad_eq_none {d : FormDef} :
    initialBad d = none ↔
      ∀ n, d.initial = some n → ∃ f ∈ d.fields, f.number = n ∧ f.kind = .input ∧ f.page = 1 := by
  unfold initialBad
  split
  · next h => simp [h]
  · next n h =>
    split
    · next found => simpa [h, and_assoc] using found
    · next missing => simpa [h, and_assoc] using missing

theorem initialBad_some {d : FormDef} {n : Nat} (h : d.initial = some n)
    (missing : ∀ f ∈ d.fields, ¬(f.number = n ∧ f.kind = .input ∧ f.page = 1)) : initialBad d = some n := by
  unfold initialBad
  rw [h]
  refine if_neg ?_
  simpa [and_assoc] using missing

/-- With no number duplicated, the form level examines the initial cursor alone. -/
theorem formLevelOffence_of_nodup {d : FormDef} (fields : (d.fields.map FieldDef.number).Nodup)
    (rules : (d.rules.map Rule.number).Nodup) :
    formLevelOffence d = (initialBad d).map fun n => (.initial, n) := by
  simp only [formLevelOffence, duplicateItem_eq_none.mpr fields, duplicateItem_eq_none.mpr rules]

theorem formLevelOffence_dupField {d : FormDef} {n : Nat}
    (h : duplicateItem (d.fields.map FieldDef.number) = some n) : formLevelOffence d = some (.dupField, n) := by
  simp only [formLevelOffence, h]

theorem formLevelOffence_dupRule {d : FormDef} {n : Nat} (fields : (d.fields.map FieldDef.number).Nodup)
    (h : duplicateItem (d.rules.map Rule.number) = some n) : formLevelOffence d = some (.dupRule, n) := by
  simp only [formLevelOffence, duplicateItem_eq_none.mpr fields, h]

theorem formLevelOffence_eq_none {d : FormDef} :
    formLevelOffence d = none ↔
      (d.fields.map FieldDef.number).Nodup ∧ (d.rules.map Rule.number).Nodup ∧ initialBad d = none := by
  constructor
  · intro h
    have fields : (d.fields.map FieldDef.number).Nodup := by
      by_contra dup
      obtain ⟨n, -, e⟩ := exists_duplicateItem dup
      rw [formLevelOffence_dupField e] at h
      cases h
    have rules : (d.rules.map Rule.number).Nodup := by
      by_contra dup
      obtain ⟨n, -, e⟩ := exists_duplicateItem dup
      rw [formLevelOffence_dupRule fields e] at h
      cases h
    rw [formLevelOffence_of_nodup fields rules] at h
    exact ⟨fields, rules, Option.map_eq_none_iff.mp h⟩
  · rintro ⟨fields, rules, initial⟩
    rw [formLevelOffence_of_nodup fields rules, initial]
    rfl

theorem fieldOffence_eq_none {classes : Table ClassDef} {d : FormDef} :
    fieldOffence classes d = none ↔ ∀ f ∈ d.fields, fieldCause classes d f = none := by
  rw [fieldOffence, findSome?_insertionSort_eq_none (key := FieldDef.number)]
  simp

theorem ruleOffence_eq_none {classes : Table ClassDef} {d : FormDef} :
    ruleOffence classes d = none ↔ ∀ r ∈ d.rules, ruleCause classes d r = none := by
  rw [ruleOffence, findSome?_insertionSort_eq_none (key := Rule.number)]
  simp

/-- The lowest-numbered field that fails a check is the one that is named (R16). -/
theorem fieldOffence_of_lowest {classes : Table ClassDef} {d : FormDef}
    (nodup : (d.fields.map FieldDef.number).Nodup) {f : FieldDef} (hf : f ∈ d.fields) {c : Cause}
    (hc : fieldCause classes d f = some c)
    (lower : ∀ g ∈ d.fields, g.number < f.number → fieldCause classes d g = none) :
    fieldOffence classes d = some (c, f.number) :=
  findSome?_insertionSort nodup hf (by simp [hc]) fun g hg hlt => by simp [lower g hg hlt]

/-- The lowest-numbered rule that fails a check is the one that is named (R16). -/
theorem ruleOffence_of_lowest {classes : Table ClassDef} {d : FormDef} (nodup : (d.rules.map Rule.number).Nodup)
    {r : Rule} (hr : r ∈ d.rules) {c : Cause} (hc : ruleCause classes d r = some c)
    (lower : ∀ q ∈ d.rules, q.number < r.number → ruleCause classes d q = none) :
    ruleOffence classes d = some (c, r.number) :=
  findSome?_insertionSort nodup hr (by simp [hc]) fun q hq hlt => by simp [lower q hq hlt]

theorem orElse_eq_none {α : Type} {o : Option α} {f : Unit → Option α} :
    o.orElse f = none ↔ o = none ∧ f () = none := by
  cases o <;> simp

section FormOffence

variable {classes : Table ClassDef} {d : FormDef} {o : Cause × Nat}

theorem formOffence_of_formLevel (h : formLevelOffence d = some o) : formOffence classes d = some o := by
  simp [formOffence, h]

theorem formOffence_of_field (level : formLevelOffence d = none) (h : fieldOffence classes d = some o) :
    formOffence classes d = some o := by
  simp [formOffence, level, h]

theorem formOffence_of_rule (level : formLevelOffence d = none) (fields : fieldOffence classes d = none)
    (h : ruleOffence classes d = some o) : formOffence classes d = some o := by
  simp [formOffence, level, fields, h]

/-- With no other offence the cycle check decides (R16, R19). -/
theorem formOffence_of_cycle (level : formLevelOffence d = none) (fields : fieldOffence classes d = none)
    (rules : ruleOffence classes d = none) :
    formOffence classes d = (cycleItem d.rules).map fun n => (.cycle, n) := by
  simp [formOffence, level, fields, rules]

theorem formOffence_eq_none :
    formOffence classes d = none ↔
      formLevelOffence d = none ∧ fieldOffence classes d = none ∧ ruleOffence classes d = none ∧
        cycleItem d.rules = none := by
  simp only [formOffence, orElse_eq_none, Option.map_eq_none_iff]

end FormOffence

/-! ## A view as a whole (R16) -/

/-- The first element with an answer gives it. -/
theorem findSome?_of_first {α β : Type} {g : α → Option β} {l a b : List α} {c : α} {o : β} (h : l = a ++ c :: b)
    (before : ∀ e ∈ a, g e = none) (hc : g c = some o) : l.findSome? g = some o := by
  rw [h, List.findSome?_append, List.findSome?_eq_none_iff.mpr before, List.findSome?_cons, hc]
  rfl

section ViewOffence

variable {v : View}

theorem View.classOffence_of_first {a b : Table ClassDef} {k : Nat} {c : ClassDef}
    (h : v.classes = a ++ (k, c) :: b) (before : ∀ e ∈ a, ¬ClassBroken e.2) (hc : ClassBroken c) :
    v.classOffence = some ⟨.cls, k, .classDef, 0⟩ :=
  findSome?_of_first h (fun e he => if_neg fun bad => before e he ((classBad_iff e.2).mp bad))
    (if_pos ((classBad_iff c).mpr hc))

theorem View.classOffence_eq_none (h : ∀ e ∈ v.classes, ¬ClassBroken e.2) : v.classOffence = none :=
  List.findSome?_eq_none_iff.mpr fun e he => if_neg fun bad => h e he ((classBad_iff e.2).mp bad)

theorem View.formOffence_of_first {a b : Table FormDef} {k : Nat} {d : FormDef} {cause : Cause} {item : Nat}
    (h : v.forms = a ++ (k, d) :: b) (before : ∀ e ∈ a, Machine.formOffence v.classes e.2 = none)
    (hd : Machine.formOffence v.classes d = some (cause, item)) :
    v.formOffence = some ⟨.form, k, cause, item⟩ :=
  findSome?_of_first h (fun e he => by simp [before e he]) (by simp [hd])

theorem View.formOffence_eq_none :
    v.formOffence = none ↔ ∀ e ∈ v.forms, Machine.formOffence v.classes e.2 = none := by
  simp [View.formOffence, List.findSome?_eq_none_iff]

theorem View.routeOffence_of_first {a b : Table RouteDef} {k : Nat} {r : RouteDef} {cause : Cause}
    (h : v.routes = a ++ (k, r) :: b) (before : ∀ e ∈ a, ∀ row ∈ routeRows v.forms e.2, ¬row.1)
    (hr : FirstHolds (routeRows v.forms r) cause) : v.routeOffence = some ⟨.route, k, cause, 0⟩ :=
  findSome?_of_first h (fun e he => by simp [(routeCause_reports v.forms e.2).2 (before e he)])
    (by simp [(routeCause_reports v.forms r).1 cause hr])

theorem View.routeOffence_eq_none (h : ∀ e ∈ v.routes, ∀ row ∈ routeRows v.forms e.2, ¬row.1) :
    v.routeOffence = none :=
  List.findSome?_eq_none_iff.mpr fun e he => by simp [(routeCause_reports v.forms e.2).2 (h e he)]

/-- The classes are examined first, then the forms, then the routes. -/
theorem View.offence_of_class {o : Offence} (h : v.classOffence = some o) : v.offence = some o := by
  simp [View.offence, h]

theorem View.offence_of_form {o : Offence} (classes : v.classOffence = none) (h : v.formOffence = some o) :
    v.offence = some o := by
  simp [View.offence, classes, h]

theorem View.offence_of_routes (classes : v.classOffence = none) (forms : v.formOffence = none) :
    v.offence = v.routeOffence := by
  simp [View.offence, classes, forms]

theorem View.forms_of_offence (h : v.offence = none) : ∀ e ∈ v.forms, Machine.formOffence v.classes e.2 = none := by
  simp only [View.offence, orElse_eq_none] at h
  exact View.formOffence_eq_none.mp h.2.1

end ViewOffence

/-! ## What is found in staged and merged tables (R9, R11, R15) -/

section Lookup

variable {α : Type}

theorem lookupKey_eq_find? (k : Nat) (t : Table α) :
    lookupKey k t = (t.find? fun e => e.1 == k).map Prod.snd := by
  induction t with
  | nil => rfl
  | cons e t ih =>
    obtain ⟨k', v⟩ := e
    rw [lookupKey_cons, List.find?_cons, ih]
    by_cases h : k = k'
    · simp [h]
    · simp [h, beq_false_of_ne (Ne.symm h)]

theorem lookupKey_map {β : Type} (k : Nat) (f : α → β) (t : Table α) :
    lookupKey k (t.map fun e => (e.1, f e.2)) = (lookupKey k t).map f := by
  induction t with
  | nil => rfl
  | cons e t ih =>
    rw [List.map_cons, lookupKey_cons, lookupKey_cons, ih]
    split <;> rfl

theorem lookupKey_eq_none {k : Nat} {t : Table α} (h : k ∉ t.map Prod.fst) : lookupKey k t = none := by
  rw [lookupKey_eq_find?, Option.map_eq_none_iff, List.find?_eq_none]
  intro e he hk
  exact h (List.mem_map.mpr ⟨e, he, by simpa using hk⟩)

/-- The last entry staged for a number stands for it; every other number keeps its entry (R9, R11). -/
theorem lookupKey_stageInto (t : Table (Option α)) (es : List (Nat × Option α)) (k : Nat) :
    lookupKey k (stageInto t es) =
      ((es.reverse.find? fun e => e.1 == k).map Prod.snd).or (lookupKey k t) := by
  induction es generalizing t with
  | nil => rfl
  | cons e es ih =>
    rw [stageInto_cons, ih, lookupKey_putKey, List.reverse_cons, List.find?_append]
    cases es.reverse.find? fun e => e.1 == k with
    | some d => rfl
    | none =>
      by_cases h : k = e.1
      · simp [h]
      · simp [h, Ne.symm h]

/-- In the merged table a staged record or remove marker stands for its number; every other number keeps its active
record (R15). -/
theorem lookupKey_merge {es : Table (Option α)} (nodup : (es.map Prod.fst).Nodup) (t : Table α) (k : Nat) :
    lookupKey k (es.foldl applyStaged t) = (lookupKey k es).getD (lookupKey k t) := by
  induction es generalizing t with
  | nil => rfl
  | cons e es ih =>
    obtain ⟨fresh, nodup⟩ := List.nodup_cons.mp nodup
    rw [List.foldl_cons, ih nodup, lookupKey_applyStaged, lookupKey_cons]
    split
    · next h => rw [lookupKey_eq_none (h ▸ fresh)]; rfl
    · rfl

theorem Table.Sound.nodup {top : Nat} {t : Table α} (h : Table.Sound top t) : (t.map Prod.fst).Nodup :=
  h.1.imp Nat.ne_of_lt

end Lookup

end Sys2Proof.Machine
end

section
/-! Staged entries stand for their numbers, and the offences of the merged view come in the order of R16. -/

namespace Sys2Proof.Machine

/-! ## The merged view (R15) -/

section Merged

variable {l : Library} (h : l.TablesSound) (k : Nat)
include h

theorem Library.lookup_merged_forms :
    lookupKey k l.merged.forms = (lookupKey k l.stagedForms).getD ((lookupKey k l.forms).map ActiveForm.defn) := by
  obtain ⟨-, -, -, staged, -, -⟩ := h
  rw [← lookupKey_map]
  exact lookupKey_merge staged.nodup _ k

theorem Library.lookup_merged_classes :
    lookupKey k l.merged.classes = (lookupKey k l.stagedClasses).getD (lookupKey k l.classes) := by
  obtain ⟨-, -, -, -, staged, -⟩ := h
  exact lookupKey_merge staged.nodup _ k

theorem Library.lookup_merged_routes :
    lookupKey k l.merged.routes = (lookupKey k l.stagedRoutes).getD (lookupKey k l.routes) := by
  obtain ⟨-, -, -, -, -, staged⟩ := h
  exact lookupKey_merge staged.nodup _ k

end Merged

/-! ## The order of R16 within a form -/

section Form

variable {classes : Table ClassDef} {d : FormDef}

theorem fieldCause_of_firstHolds {f : FieldDef} {c : Cause} (h : FirstHolds (fieldRows classes d f) c) :
    fieldCause classes d f = some c :=
  (fieldCause_reports classes d f).1 c h

theorem fieldCause_eq_none {f : FieldDef} (h : ∀ row ∈ fieldRows classes d f, ¬row.1) :
    fieldCause classes d f = none :=
  (fieldCause_reports classes d f).2 h

/-- A form whose numbers are not duplicated and whose initial cursor is sound goes on to its fields. -/
theorem formLevel_passes (fields : (d.fields.map FieldDef.number).Nodup) (rules : (d.rules.map Rule.number).Nodup)
    (initial : ∀ n, d.initial = some n → ∃ f ∈ d.fields, f.number = n ∧ f.kind = .input ∧ f.page = 1) :
    formLevelOffence d = none :=
  formLevelOffence_eq_none.mpr ⟨fields, rules, initialBad_eq_none.mpr initial⟩

/-- After the fields come the rules of R19, and then the cycle check. -/
theorem formOffence_after_fields (fields : (d.fields.map FieldDef.number).Nodup)
    (rules : (d.rules.map Rule.number).Nodup) (level : formLevelOffence d = none)
    (pass : fieldOffence classes d = none) :
    (∀ r ∈ d.rules, ∀ cause, FirstHolds (ruleRows classes d r) cause →
      (∀ q ∈ d.rules, q.number < r.number → ∀ row ∈ ruleRows classes d q, ¬row.1) →
      formOffence classes d = some (cause, r.number)) ∧
    ((∀ r ∈ d.rules, ∀ row ∈ ruleRows classes d r, ¬row.1) →
      (∀ r ∈ d.rules, Relation.TransGen (Feeds d.rules) r r →
        (∀ q ∈ d.rules, Relation.TransGen (Feeds d.rules) q q → r.number ≤ q.number) →
        formOffence classes d = some (.cycle, r.number)) ∧
      ((∀ r ∈ d.rules, ¬Relation.TransGen (Feeds d.rules) r r) → formOffence classes d = none)) := by
  refine ⟨fun r hr cause first lower => ?_, fun sound => ?_⟩
  · exact formOffence_of_rule level pass (ruleOffence_of_lowest rules hr ((ruleCause_reports fields r).1 cause first)
      fun q hq lt => (ruleCause_reports fields q).2 (lower q hq lt))
  · have rulesPass : ruleOffence classes d = none :=
      ruleOffence_eq_none.mpr fun r hr => (ruleCause_reports fields r).2 (sound r hr)
    rw [formOffence_of_cycle level pass rulesPass]
    refine ⟨fun r hr cycle lowest => ?_, fun acyclic => ?_⟩
    · rw [cycleItem_of_lowest rules hr cycle lowest]; rfl
    · rw [(cycleItem_eq_none rules).mpr acyclic]; rfl

end Form

/-- Settles O23: tables by number, the merged view by number, the order of R16 over a view and within a form. -/
theorem stagedEntriesStandForTheirNumbers : Obligations.StagedEntriesStandForTheirNumbers := by
  refine ⟨fun _ t k => lookupKey_eq_find? k t, fun _ t es k => ?_, fun l h => ⟨fun k => ?_, fun k => ?_, fun k => ?_⟩,
    fun v => ⟨?_, fun classes => ⟨?_, fun forms => ⟨?_, ?_⟩⟩⟩, fun classes d => ⟨?_, ?_, fun fields rules => ⟨?_, ?_⟩⟩⟩
  · rw [lookupKey_stageInto]
    cases es.reverse.find? fun e => e.1 == k <;> rfl
  · rw [Library.lookup_merged_forms h]
    cases lookupKey k l.stagedForms <;> rfl
  · rw [Library.lookup_merged_classes h]
    cases lookupKey k l.stagedClasses <;> rfl
  · rw [Library.lookup_merged_routes h]
    cases lookupKey k l.stagedRoutes <;> rfl
  · exact fun a k c b split before bad => View.offence_of_class (View.classOffence_of_first split before bad)
  · exact fun a k d b cause item split before bad =>
      View.offence_of_form (View.classOffence_eq_none classes) (View.formOffence_of_first split before bad)
  · intro a k r b cause split before first
    rw [View.offence_of_routes (View.classOffence_eq_none classes) (View.formOffence_eq_none.mpr forms)]
    exact View.routeOffence_of_first split before first
  · intro routes
    rw [View.offence_of_routes (View.classOffence_eq_none classes) (View.formOffence_eq_none.mpr forms)]
    exact View.routeOffence_eq_none routes
  · intro dup
    obtain ⟨n, count, item⟩ := exists_duplicateItem dup
    exact ⟨n, count, formOffence_of_formLevel (formLevelOffence_dupField item)⟩
  · intro fields dup
    obtain ⟨n, count, item⟩ := exists_duplicateItem dup
    exact ⟨n, count, formOffence_of_formLevel (formLevelOffence_dupRule fields item)⟩
  · intro n initial missing
    refine formOffence_of_formLevel ?_
    rw [formLevelOffence_of_nodup fields rules, initialBad_some initial missing]
    rfl
  · intro initial
    have level := formLevel_passes fields rules initial
    refine ⟨fun f hf cause first lower => ?_, fun sound => ?_⟩
    · exact formOffence_of_field level (fieldOffence_of_lowest fields hf (fieldCause_of_firstHolds first)
        fun g hg lt => fieldCause_eq_none (lower g hg lt))
    · exact formOffence_after_fields fields rules level
        (fieldOffence_eq_none.mpr fun f hf => fieldCause_eq_none (sound f hf))

end Sys2Proof.Machine
end

section
/-! The computation order (R5): every rule after the rules that feed it, the lowest-numbered first. -/

namespace Sys2Proof.Machine

/-! ## The next rule -/

/-- The next rule is one that no unplaced rule feeds, and the lowest-numbered of those. -/
theorem nextRule_some {rules : List Rule} {r : Rule} (h : nextRule rules = some r) :
    r ∈ rules ∧ (∀ u ∈ rules, u.target ∉ r.sources) ∧
      ∀ q ∈ rules, (∀ u ∈ rules, u.target ∉ q.sources) → r.number ≤ q.number := by
  have unfed {q : Rule} : (rules.all fun u => !feeds u q) = true ↔ ∀ u ∈ rules, u.target ∉ q.sources := by
    simp [feeds]
  have found := List.find?_some (p := fun q => rules.all fun u => !feeds u q) h
  refine ⟨?_, unfed.mp found, fun q hq free => ?_⟩
  · exact (List.mem_insertionSort _).mp (List.mem_of_find?_eq_some h)
  · exact find?_of_ascending (pairwise_insertionSort Rule.number rules) h ((List.mem_insertionSort _).mpr hq)
      (unfed.mpr free)

/-- Rules without a cycle, one at least, have one that none of them feeds. -/
theorem exists_unfed {rules : List Rule} (nonempty : rules ≠ [])
    (acyclic : ∀ r ∈ rules, ¬Relation.TransGen (Feeds rules) r r) :
    ∃ r ∈ rules, ∀ u ∈ rules, u.target ∉ r.sources := by
  let before (a b : {r // r ∈ rules}) : Prop := Relation.TransGen (Feeds rules) a b
  have : Finite {r // r ∈ rules} := List.finite_toSet rules
  have : IsTrans {r // r ∈ rules} before := ⟨fun _ _ _ => Relation.TransGen.trans⟩
  have : Std.Irrefl before := ⟨fun r => acyclic r r.2⟩
  have founded : WellFounded before := Finite.wellFounded_of_trans_of_irrefl before
  obtain ⟨r, hr⟩ := List.exists_mem_of_ne_nil rules nonempty
  obtain ⟨m, -, least⟩ := founded.has_min Set.univ ⟨⟨r, hr⟩, trivial⟩
  exact ⟨m, m.2, fun u hu feed => least ⟨u, hu⟩ trivial (.single ⟨hu, m.2, feed⟩)⟩

theorem exists_nextRule {rules : List Rule} (nonempty : rules ≠ [])
    (acyclic : ∀ r ∈ rules, ¬Relation.TransGen (Feeds rules) r r) : ∃ r, nextRule rules = some r := by
  obtain ⟨r, hr, unfed⟩ := exists_unfed nonempty acyclic
  refine Option.isSome_iff_exists.mp (List.find?_isSome.mpr ⟨r, (List.mem_insertionSort _).mpr hr, ?_⟩)
  simpa [feeds] using unfed

/-! ## The order -/

/-- `order` is a computation order of `rules`: it places each once, after the rules that feed it, and at each place
the lowest-numbered of those that may come next (R5). -/
def Ordered (rules : List Rule) (order : List Nat) : Prop :=
  order.Perm (rules.map Rule.number) ∧
    ∀ a n b, order = a ++ n :: b → ∀ r ∈ rules,
      (r.number = n → ∀ q ∈ rules, q.target ∈ r.sources → q.number ∈ a) ∧
      (r.number ∈ b → (∀ q ∈ rules, q.target ∈ r.sources → q.number ∈ a) → n < r.number)

/-- The rules left when `r` has been placed. -/
def unplaced (rules : List Rule) (r : Rule) : List Rule := rules.filter fun u => u.number != r.number

theorem mem_unplaced {rules : List Rule} {r q : Rule} : q ∈ unplaced rules r ↔ q ∈ rules ∧ q.number ≠ r.number := by
  simp [unplaced]

theorem unplaced_nodup {rules : List Rule} (nodup : (rules.map Rule.number).Nodup) (r : Rule) :
    ((unplaced rules r).map Rule.number).Nodup :=
  nodup.sublist (List.filter_sublist.map _)

theorem unplaced_acyclic {rules : List Rule} (acyclic : ∀ r ∈ rules, ¬Relation.TransGen (Feeds rules) r r) (r : Rule) :
    ∀ q ∈ unplaced rules r, ¬Relation.TransGen (Feeds (unplaced rules r)) q q := by
  intro q hq cycle
  refine acyclic q (mem_unplaced.mp hq).1 (Relation.TransGen.mono ?_ q q cycle)
  rintro a b ⟨ha, hb, feed⟩
  exact ⟨(mem_unplaced.mp ha).1, (mem_unplaced.mp hb).1, feed⟩

theorem unplaced_perm {rules : List Rule} (nodup : (rules.map Rule.number).Nodup) {r : Rule} (hr : r ∈ rules) :
    (r :: unplaced rules r).Perm rules := by
  rw [List.perm_ext_iff_of_nodup]
  · intro q
    rw [List.mem_cons, mem_unplaced]
    constructor
    · rintro (rfl | ⟨hq, -⟩)
      · exact hr
      · exact hq
    · intro hq
      by_cases same : q.number = r.number
      · exact .inl (rule_ext nodup hq hr same)
      · exact .inr ⟨hq, same⟩
  · exact List.nodup_cons.mpr ⟨fun h => (mem_unplaced.mp h).2 rfl, (nodup.of_map _).filter _⟩
  · exact nodup.of_map _

/-- The lowest-numbered rule that none feeds, before an order of the others, orders them all. -/
theorem Ordered.cons {rules : List Rule} (nodup : (rules.map Rule.number).Nodup) {r : Rule}
    (next : nextRule rules = some r) {order : List Nat} (h : Ordered (unplaced rules r) order) :
    Ordered rules (r.number :: order) := by
  obtain ⟨hr, unfed, lowest⟩ := nextRule_some next
  obtain ⟨perm, places⟩ := h
  have later {n : Nat} (hn : n ∈ order) : n ≠ r.number := by
    obtain ⟨u, hu, rfl⟩ := List.mem_map.mp (perm.mem_iff.mp hn)
    exact (mem_unplaced.mp hu).2
  refine ⟨(perm.cons r.number).trans ((unplaced_perm nodup hr).map Rule.number), fun a n b split q hq => ?_⟩
  cases a with
  | nil =>
    obtain ⟨rfl, rfl⟩ := List.cons.inj split
    refine ⟨fun same => ?_, fun after fed => ?_⟩
    · obtain rfl := rule_ext nodup hq hr same
      exact fun u hu feed => absurd feed (unfed u hu)
    · exact lt_of_le_of_ne (lowest q hq fun u hu feed => List.not_mem_nil (fed u hu feed)) (later after).symm
  | cons m a =>
    obtain ⟨rfl, tail⟩ : r.number = m ∧ order = a ++ n :: b := List.cons.inj split
    obtain rfl | other := eq_or_ne q r
    · exact ⟨fun same => absurd same.symm (later (by simp [tail])),
        fun after => absurd rfl (later (by simp [tail, after]))⟩
    · have hq' : q ∈ unplaced rules r :=
        mem_unplaced.mpr ⟨hq, fun same => other (rule_ext nodup hq hr same)⟩
      obtain ⟨here, there⟩ := places a n b tail q hq'
      refine ⟨fun same u hu feed => ?_, fun after fed => there after fun u hu feed => ?_⟩
      · by_cases placed : u.number = r.number
        · rw [placed]; exact List.mem_cons_self
        · exact List.mem_cons_of_mem _ (here same u (mem_unplaced.mpr ⟨hu, placed⟩) feed)
      · obtain ⟨hu, fresh⟩ := mem_unplaced.mp hu
        exact (List.mem_cons.mp (fed u hu feed)).resolve_left fresh

theorem orderFrom_ordered (k : Nat) {rules : List Rule} (len : rules.length = k)
    (nodup : (rules.map Rule.number).Nodup) (acyclic : ∀ r ∈ rules, ¬Relation.TransGen (Feeds rules) r r) :
    Ordered rules (orderFrom k rules) := by
  induction k generalizing rules with
  | zero =>
    obtain rfl := List.length_eq_zero_iff.mp len
    exact ⟨.refl _, fun a n b split => by simp [orderFrom] at split⟩
  | succ k ih =>
    obtain ⟨r, next⟩ := exists_nextRule (List.ne_nil_of_length_eq_add_one len) acyclic
    have shorter : (unplaced rules r).length = k := by
      have := (unplaced_perm nodup (nextRule_some next).1).length_eq
      simp only [List.length_cons] at this
      omega
    have e : orderFrom (k + 1) rules = r.number :: orderFrom k (unplaced rules r) := by
      simp only [orderFrom, next, unplaced]
    rw [e]
    exact .cons nodup next (ih shorter (unplaced_nodup nodup r) (unplaced_acyclic acyclic r))

/-- Rules without a cycle have a computation order, and `computationOrder` is one (R5). -/
theorem computationOrder_ordered {rules : List Rule} (nodup : (rules.map Rule.number).Nodup)
    (acyclic : ∀ r ∈ rules, ¬Relation.TransGen (Feeds rules) r r) : Ordered rules (computationOrder rules) :=
  orderFrom_ordered rules.length rfl nodup acyclic

end Sys2Proof.Machine
end

section
/-! The requests of the library as commands: STAGE, DISCARD, COMMIT and LOCK. -/

namespace Sys2Proof.Machine

/-! ## A request that is served -/

/-- A request row in its ranges, whose payload fits a frame and which no earlier step refuses, is counted and served
(R172, R173). -/
theorem State.request_served {s : State} {r : Request} (tag : Byte) (room : s.host.outstanding < 4)
    (valid : requestValid r = true) (fits : (requestBytes r).length ≤ 1024) (early : earlyRefusal r = none) :
    s.request tag r = s.countIn.serve tag (requestBytes r) r := by
  have short : ¬Config.payloadCapacity < (requestBytes r).length := Nat.not_lt.mpr fits
  have accepted : s.host.outstanding < Config.outstandingRequests := room
  simp only [State.request, if_neg short, State.accept, if_pos accepted, State.decide, if_pos valid, early]

/-- What a request of the library leaves: the library as its block made it, its answer queued, and nothing else
changed (R176). -/
theorem State.serveLibrary_done (s : State) (tag : Byte) (q : Library × Response) :
    ∃ t, (s.countIn.serveLibrary tag q).done = .next t ∧ s.EventsQuiet t ∧ s.StationsKept t ∧
      t.pending = s.pending ∧ t.library = q.1 ∧ t.host = s.host.answered tag q.2 :=
  ⟨_, rfl, rfl, fun _ => rfl, rfl, rfl, rfl⟩

theorem exec_stage {s : State} {load : StageLoad} (tag : Byte) (room : s.host.outstanding < 4)
    (valid : loadValid load = true) (fits : (loadBytes load).length ≤ 1024) :
    exec (.stage tag load) s = (s.countIn.serveLibrary tag (s.library.stage load (loadBytes load))).done :=
  congrArg State.done (State.request_served tag room (r := .stage load) valid fits rfl)

theorem exec_discard {s : State} (tag : Byte) (room : s.host.outstanding < 4) :
    exec (.discard tag) s = (s.countIn.serveLibrary tag s.library.discard).done :=
  congrArg State.done (State.request_served tag room (r := .discard) rfl (Nat.zero_le _) rfl)

theorem exec_commit {s : State} (tag : Byte) (check : Half) (room : s.host.outstanding < 4) :
    exec (.commit tag check) s = (s.countIn.serveLibrary tag (s.library.commit check)).done :=
  congrArg State.done (State.request_served tag room (r := .commit check) rfl (by simp [requestBytes, halfBytes]) rfl)

theorem exec_lock {s : State} (tag : Byte) (kinds : BitVec 3) (room : s.host.outstanding < 4) :
    exec (.lock tag kinds) s = (s.countIn.serveLibrary tag (s.library.lock kinds)).done :=
  congrArg State.done (State.request_served tag room (r := .lock kinds) rfl (by simp [requestBytes]) rfl)

/-! ## The statements -/

/-- Settles O22: STAGE is one request of the library, decided by its lock and by its room (R11). -/
theorem stageLoadsEntries : Obligations.StageLoadsEntries := by
  refine ⟨fun l => ⟨rfl, fun _ => ⟨rfl, rfl⟩, fun _ => ⟨rfl, rfl⟩, fun _ => ⟨rfl, rfl⟩⟩, ?_⟩
  intro tag load s valid fits room
  obtain ⟨t, run, quiet, kept, pending, library, host⟩ :=
    s.serveLibrary_done tag (s.library.stage load (loadBytes load))
  refine ⟨t, (exec_stage tag room valid fits).trans run, quiet, kept, pending, ?_⟩
  rw [library, host]
  unfold Library.stage
  split
  · exact ⟨rfl, rfl⟩
  · change if Config.stagingCapacity < _ then _ else _
    split <;> exact ⟨rfl, rfl⟩

/-- Settles O24: DISCARD and LOCK are requests of the library that are never refused (R13, R24). -/
theorem discardAndLock : Obligations.DiscardAndLock := by
  intro tag kinds s room
  constructor
  · obtain ⟨t, run, quiet, kept, pending, library, host⟩ := s.serveLibrary_done tag s.library.discard
    exact ⟨t, (exec_discard tag room).trans run, library, host, quiet, kept, pending⟩
  · obtain ⟨t, run, quiet, kept, pending, library, host⟩ := s.serveLibrary_done tag (s.library.lock kinds)
    exact ⟨t, (exec_lock tag kinds room).trans run, library, host, quiet, kept, pending⟩

/-- A staged entry is of a locked kind, by the bits of the lock set (R14 step 3, R194). -/
theorem Library.stagedLocked_iff (l : Library) :
    l.stagedLocked = true ↔
      (l.stagedForms ≠ [] ∧ l.locks.getLsbD 0 = true) ∨ (l.stagedClasses ≠ [] ∧ l.locks.getLsbD 1 = true) ∨
        (l.stagedRoutes ≠ [] ∧ l.locks.getLsbD 2 = true) := by
  simp [Library.stagedLocked, Library.locked, lockBit, or_assoc]

/-- Why a COMMIT is refused: the first of the tests of R14 that fails. -/
theorem Library.commitRefusal_eq (l : Library) (check : Half) :
    l.commitRefusal check =
      if l.staged = 0 then some (.code .noStage)
      else if l.sum + check ≠ 0#16 then some (.code .check)
      else if (l.stagedForms ≠ [] ∧ l.locks.getLsbD 0 = true) ∨ (l.stagedClasses ≠ [] ∧ l.locks.getLsbD 1 = true) ∨
          (l.stagedRoutes ≠ [] ∧ l.locks.getLsbD 2 = true) then some (.code .locked)
      else
        match l.merged.offence with
        | some o => some (.invalid o)
        | none => if 1024 < l.merged.fieldTotal then some (.capacity l.merged.fieldTotal) else none := by
  simp only [Library.commitRefusal, Library.filling, Library.stagedLocked_iff, Bool.not_eq_true', bne_iff_ne,
    bne_eq_false_iff_eq, Config.fieldCapacity]
  rfl

/-- Settles O25: COMMIT is one request of the library, decided by the tests of R14; the order of R5 is the one that
`computationOrder_ordered` describes. -/
theorem commitInstallsTheMergedView : Obligations.CommitInstallsTheMergedView := by
  refine ⟨fun tag check s room => ?_, fun rules nodup acyclic => computationOrder_ordered nodup acyclic⟩
  obtain ⟨t, run, quiet, kept, pending, library, host⟩ := s.serveLibrary_done tag (s.library.commit check)
  refine ⟨t, (exec_commit tag check room).trans run, quiet, kept, pending, ?_⟩
  have refused {r : RefuseReason} (h : s.library.commitRefusal check = some r) :
      t.library = s.library ∧ t.host = s.host.answered tag (.refuse 0x03#8 r) := by
    simp only [Library.commit, h] at library host
    exact ⟨library, host⟩
  have decided := s.library.commitRefusal_eq check
  dsimp only
  split
  · next h => exact refused (by rw [decided, if_pos h])
  · next staged =>
    rw [if_neg staged] at decided
    split
    · next h => exact refused (by rw [decided, if_pos h])
    · next sum =>
      rw [if_neg sum] at decided
      split
      · next h => exact refused (by rw [decided, if_pos h])
      · next locked =>
        rw [if_neg locked] at decided
        split
        · next o offence => exact refused (by rw [decided, offence])
        · next offence =>
          rw [offence] at decided
          split
          · next h => exact refused (decided.trans (if_pos h))
          · next room =>
            simp only [Library.commit, decided.trans (if_neg room)] at library host
            refine ⟨library, ?_⟩
            rw [host]
            simp only [Library.install, Library.commitBody, List.length_map]
            rfl

end Sys2Proof.Machine
end

section
/-! Power-on (R185) and PART RESET (R184). -/

namespace Sys2Proof.Machine

/-! ## Power-on -/

/-- Settles O3: POWER_ON leaves the power-on state with the queue of commands that was there. -/
theorem powerOnGivesThePowerOnState : Obligations.PowerOnGivesThePowerOnState := by
  intro s
  refine ⟨{ State.reset with pending := s.pending }, rfl, rfl, rfl, rfl, rfl, fun i => ?_, rfl, rfl, rfl, fun i => ?_⟩
  · exact Vector.getElem_replicate i.isLt
  · have h : ({ State.reset with pending := s.pending } : State).station i = Station.reset := State.reset_station i
    rw [h]
    exact ⟨rfl, rfl, rfl, rfl, rfl, rfl, rfl, rfl, rfl, rfl, rfl⟩

/-- A station after power-on meets the invariants of its composer. -/
theorem Station.reset_composer_sound :
    Station.reset.Pictured ∧ Station.reset.Consistent ∧ Station.reset.QueueSound ∧ Station.reset.TimerSound := by
  refine ⟨rfl, ⟨rfl, rfl, rfl, rfl, rfl, rfl⟩, ⟨Nat.zero_le _, fun _ => rfl⟩, ?_⟩
  intro n h
  cases h

/-- A line unit after power-on is DOWN, with the repaint of the whole screen to come. -/
theorem LineUnit.reset_sound :
    LineUnit.reset.QueueSound ∧ LineUnit.reset.DownSound ∧ LineUnit.reset.RepaintSound := by
  refine ⟨⟨Nat.zero_le _, ?_, .nil, fun _ => ⟨rfl, rfl⟩⟩, ⟨rfl, rfl, rfl, rfl, rfl, rfl⟩, ?_⟩
  · simp [LineUnit.reset]
  · intro r h
    cases h

/-- A station after power-on has its scanner ENABLED at 0 and holds no instance. -/
theorem Station.reset_sound :
    Station.reset.EngineSound ∧ Station.reset.SettlingSound ∧ Station.reset.ScannerSound ∧
      Station.reset.FormSound ∧ Station.reset.ResultsCurrent := by
  refine ⟨?_, ?_, ⟨Nat.zero_lt_succ 31, by decide⟩, ?_, ?_⟩
  · intro up
    cases up
  · intro x h
    cases h
  · intro x h
    cases h
  · intro x h
    cases h

theorem HostLine.reset_sound : HostLine.reset.Sound := by
  simp [HostLine.Sound, HostLine.reset, HostLine.owed, HostLine.frames]

/-- After power-on POWER-ON is pending, and SRQ is asserted (R185, R189). -/
theorem EventUnit.reset_sound : EventUnit.reset.Sound :=
  show true = EventUnit.reset.srqLevel by decide

/-- Settles O4: each invariant holds of the power-on value of its block. -/
theorem invariantsHoldAfterPowerOn : Obligations.InvariantsHoldAfterPowerOn := by
  obtain ⟨tables, ranges, active, staging⟩ := Library.sound_reset
  refine ⟨fun i => ?_, tables, ranges, active, staging, HostLine.reset_sound, EventUnit.reset_sound⟩
  obtain ⟨pictured, consistent, queue, timer⟩ := Station.reset_composer_sound
  obtain ⟨lineQueue, down, repaint⟩ := LineUnit.reset_sound
  obtain ⟨engine, settling, scanner, form, results⟩ := Station.reset_sound
  rw [State.reset_station]
  exact ⟨pictured, consistent, queue, timer, lineQueue, down, repaint, engine, settling, scanner, form, results⟩

/-! ## PART RESET -/

/-- PART RESET outside the stations: staging emptied, every flag and the hold-off cleared, the host line reset, and its
ACCEPT queued (R184). -/
theorem State.resetPart_frame (s : State) (tag : Byte) :
    (s.resetPart tag).library = s.library.emptyStaging ∧ (s.resetPart tag).pending = s.pending ∧
      (s.resetPart tag).host = s.host.partReset.send [answerFrame tag (.accept .partReset)] := by
  obtain ⟨library, host, pending⟩ := State.resets_frame allStations s
  simp only [State.resetPart, State.respond_library, State.respond_pending, State.respond_host, library, host, pending,
    and_self]

/-- PART RESET raises no event at a station. -/
theorem State.resets_events (is : List StationId) (s : State) :
    (is.foldl (fun t i => t.event i Act.partReset) s).events = s.events := by
  induction is generalizing s with
  | nil => rfl
  | cons i is ih => exact (ih _).trans (State.event_events_quiet s i Act.partReset rfl)

/-- With every flag and the hold-off cleared SRQ is negated (R184, R189). -/
theorem State.resetPart_events (s : State) (tag : Byte) :
    (s.resetPart tag).events.drive = ⟨0#3, Vector.replicate 8 0#8, s.events.enables, none, false⟩ := by
  have h := State.resets_events allStations s
  simp only [State.resetPart, State.respond_events, h]
  rfl

/-- A repaint asked with no tone on an UP line with nothing in flight: ERASE-SCREEN starts at once, and otherwise
repaint-all stays set (R162, R164). -/
theorem LineUnit.requestRepaint_engine {l : LineUnit} (quiet : l.tone = none) (img : Image) (p : Nat) :
    l.requestRepaint.engine img p =
      if l.up = true ∧ l.inFlight = none then
        { l with
          paintQueue := [], repaintAll := false, repaint := some 1, inFlight := some .erase, lastCursor := some 0 }
      else { l with paintQueue := [], repaintAll := true, repaint := none } := by
  unfold LineUnit.engine LineUnit.startNext LineUnit.startOther LineUnit.requestRepaint
  simp only [quiet]
  simp

/-- The line unit that PART RESET gives, before the composer's repaint request and the engine's choice (R169). -/
def Station.resetLine (st : Station) : LineUnit :=
  { st.line with
    scanErrors := 0
    scanner := if st.settings.scanner = true then .enabled else .disabled
    parityErrors := 0
    framingErrors := 0
    tone := none }

/-- The station that PART RESET gives, before its image and its line unit follow (R46). -/
def Station.emptied (st : Station) : Station :=
  ⟨.noForm, none, .free, [], none, false, none, st.settings, List.replicate 40 blank, [], st.resetLine⟩

/-- PART RESET at a station empties it and asks the repaint of the whole screen (R42, R46). -/
theorem Act.partReset_finish (st : Station) :
    (Act.start st).partReset.finish st.image = (⟨st.emptied, [], true, []⟩ : Act).finish st.image := rfl

/-- The line unit of an emptied station after the repaint request, to which no tone is added. -/
theorem Station.emptied_line (st : Station) (before : Image) :
    ((⟨st.emptied, [], true, []⟩ : Act).finish before).line =
      if st.line.up = true ∧ st.line.inFlight = none then
        { st.resetLine with
          paintQueue := [], repaintAll := false, repaint := some 1, inFlight := some .erase, lastCursor := some 0 }
      else { st.resetLine with paintQueue := [], repaintAll := true, repaint := none } := by
  have handed : (⟨st.emptied, [], true, []⟩ : Act).handed before (composeImage st.emptied) =
      st.resetLine.requestRepaint := ite_self _
  show LineUnit.engine (Act.handed _ _ _) _ _ = _
  rw [handed]
  exact LineUnit.requestRepaint_engine (l := st.resetLine) rfl _ _

/-- What PART RESET leaves of a station, once the station is the emptied one at the end of its event. -/
theorem State.left_emptied {s t : State} {i : StationId}
    (h : t.station i = (⟨(s.station i).emptied, [], true, []⟩ : Act).finish (s.station i).image) :
    s.Left t i (s.station i).emptied true [] ∧ (s.station i).emptied.LineKept (t.station i) ∧
      (t.station i).line.tone = none ∧ (t.station i).line.paintQueue = [] ∧
      if (s.station i).resetLine.up = true ∧ (s.station i).resetLine.inFlight = none then
        (t.station i).line.inFlight = some .erase ∧ (t.station i).line.repaint = some 1 ∧
          (t.station i).line.repaintAll = false ∧ (t.station i).line.lastCursor = some 0
      else
        (t.station i).line.inFlight = (s.station i).resetLine.inFlight ∧ (t.station i).line.repaint = none ∧
          (t.station i).line.repaintAll = true ∧
          (t.station i).line.lastCursor = (s.station i).resetLine.lastCursor := by
  have kept := Act.finish_lineKept ⟨(s.station i).emptied, [], true, []⟩ (s.station i).image
  refine ⟨⟨by rw [h]; rfl, h⟩, h ▸ kept, ?_⟩
  rw [h, Station.emptied_line]
  by_cases idle : (s.station i).line.up = true ∧ (s.station i).line.inFlight = none
  · rw [if_pos idle]
    exact ⟨rfl, rfl, (if_pos idle).mpr ⟨rfl, rfl, rfl, rfl⟩⟩
  · rw [if_neg idle]
    exact ⟨rfl, rfl, (if_neg idle).mpr ⟨rfl, rfl, rfl, rfl⟩⟩

theorem exec_partReset {s : State} (tag : Byte) (room : s.host.outstanding < 4) :
    exec (.partReset tag) s = (s.countIn.resetPart tag).done :=
  congrArg State.done (State.request_served tag room (r := .partReset) rfl (Nat.zero_le _) rfl)

/-- Settles O40: PART RESET block by block, and at each station the repaint of the whole screen that it asks. -/
theorem partResetResetsEveryBlock : Obligations.PartResetResetsEveryBlock := by
  intro tag s room
  obtain ⟨library, pending, host⟩ := s.countIn.resetPart_frame tag
  refine ⟨_, exec_partReset tag room, pending, library, s.countIn.resetPart_events tag, host, fun i => ?_⟩
  exact State.left_emptied ((s.countIn.resetPart_station tag i).trans (Act.partReset_finish (s.station i)))

end Sys2Proof.Machine
end

section
/-! The form instance: what a form that passed validation gives its instances, and which changes of an instance leave
it a sound copy. -/

namespace Sys2Proof.Machine

/-! ## What validation gives (R2, R3, R18, R19) -/

/-- What the instances of a form rely on: field numbers stand once, every field lies on a page of the form and within
its row, and a rule targets no INPUT field. -/
structure Laid (d : FormDef) : Prop where
  numbers : (d.fields.map FieldDef.number).Nodup
  pages : 1 ≤ d.pages ∧ d.pages ≤ Config.pages
  page : ∀ f ∈ d.fields, 1 ≤ f.page ∧ f.page ≤ d.pages
  row : ∀ f ∈ d.fields, 1 ≤ f.row ∧ f.row ≤ 23
  columns : ∀ f ∈ d.fields, 1 ≤ f.column ∧ 1 ≤ f.length ∧ f.column + f.length ≤ 81
  targets : ∀ r ∈ d.rules, ∀ f ∈ d.fields, f.number = r.target → f.kind = .fixed

theorem formValid_pages {d : FormDef} (h : formValid d = true) : 1 ≤ d.pages ∧ d.pages ≤ Config.pages := by
  simp only [formValid, inRange, Bool.and_eq_true, decide_eq_true_eq] at h
  exact h.1.1.1.1.1

theorem formValid_field {d : FormDef} (h : formValid d = true) {f : FieldDef} (hf : f ∈ d.fields) :
    1 ≤ f.page ∧ (1 ≤ f.row ∧ f.row ≤ 23) ∧ 1 ≤ f.column ∧ 1 ≤ f.length := by
  simp only [formValid, Bool.and_eq_true, List.all_eq_true] at h
  obtain ⟨⟨⟨-, fields⟩, -⟩, -⟩ := h
  have valid := fields f hf
  simp only [fieldValid, inRange, Bool.and_eq_true, decide_eq_true_eq] at valid
  omega

theorem laid_of_valid {d : FormDef} {classes : Table ClassDef} (valid : formValid d = true)
    (passed : formOffence classes d = none) : Laid d := by
  obtain ⟨level, fields, rules, -⟩ := formOffence_eq_none.mp passed
  obtain ⟨numbers, -, -⟩ := formLevelOffence_eq_none.mp level
  have checked : ∀ f ∈ d.fields, f.page ≤ d.pages ∧ f.column + f.length - 1 ≤ 80 := by
    intro f hf
    have none := firstFailing_eq_none.mp (fieldOffence_eq_none.mp fields f hf)
    simp only [List.forall_mem_cons, decide_eq_false_iff_not, Nat.not_lt] at none
    exact ⟨none.1, none.2.1⟩
  refine ⟨numbers, formValid_pages valid, fun f hf => ?_, fun f hf => (formValid_field valid hf).2.1, fun f hf => ?_,
    fun r hr f hf same => ?_⟩
  · exact ⟨(formValid_field valid hf).1, (checked f hf).1⟩
  · obtain ⟨-, -, column, length⟩ := formValid_field valid hf
    have := (checked f hf).2
    omega
  · have none := firstFailing_eq_none.mp (ruleOffence_eq_none.mp rules r hr)
    simp only [List.forall_mem_cons, Bool.not_eq_false', List.any_eq_true, Bool.and_eq_true, beq_iff_eq] at none
    obtain ⟨-, ⟨g, hg, number, fixed⟩, -⟩ := none
    rw [field_ext numbers hf hg (same.trans number.symm)]
    exact fixed

/-! ## Sound records -/

/-- A sound record of an instance of the form `d` (R32, R34, R88, R140). -/
def FieldRec.Sound (d : FormDef) (f : FieldRec) : Prop :=
  f.content.length = f.defn.length ∧ f.result.isSome = isComputedDef d f.defn ∧
    (isComputedDef d f.defn = true → f.override = none ∧ f.touched = false ∧ f.mark = none) ∧
    (f.kind = .fixed → f.touched = false ∧ f.mark = none)

theorem FormInstance.fieldsSound_iff {x : FormInstance} :
    x.FieldsSound ↔ x.fields.map (·.defn) = x.defn.fields ∧ ∀ f ∈ x.fields, f.Sound x.defn := Iff.rfl

theorem isComputedDef_iff {d : FormDef} {f : FieldDef} :
    isComputedDef d f = true ↔ f.kind = .fixed ∧ ∃ r ∈ d.rules, r.target = f.number := by
  simp [isComputedDef]

/-- An input field is no computed field: no override lies on a computed field, and it is FIXED. -/
theorem FieldRec.Sound.not_computed {d : FormDef} {f : FieldRec} (h : f.Sound d) (input : f.isInput = true) :
    isComputedDef d f.defn = false := by
  by_contra computed
  obtain ⟨override, -⟩ := h.2.2.1 (Bool.eq_true_of_not_eq_false computed)
  have fixed := (isComputedDef_iff.mp (Bool.eq_true_of_not_eq_false computed)).1
  simp [FieldRec.isInput, FieldRec.kind, override, fixed] at input

/-- A record that is not computed may take any content of its length, any override and, when its effective kind is
INPUT, any flag and mark. -/
theorem FieldRec.Sound.refilled {d : FormDef} {f g : FieldRec} (h : f.Sound d) (defn : g.defn = f.defn)
    (result : g.result = f.result) (length : g.content.length = f.defn.length)
    (free : isComputedDef d f.defn = false) (fixed : g.kind = .fixed → g.touched = false ∧ g.mark = none) :
    g.Sound d := by
  refine ⟨by rw [length, defn], by rw [result, defn]; exact h.2.1, ?_, fixed⟩
  rw [defn, free]
  exact fun e => Bool.noConfusion e

/-- A record stays sound when its touched flag or its mark is cleared. -/
theorem FieldRec.Sound.cleared {d : FormDef} {f : FieldRec} (h : f.Sound d) {touched : Bool} {mark : Option Mark}
    (ht : touched = f.touched ∨ touched = false) (hm : mark = f.mark ∨ mark = none) :
    FieldRec.Sound d { f with touched := touched, mark := mark } := by
  obtain ⟨length, result, computed, fixed⟩ := h
  refine ⟨length, result, fun c => ⟨(computed c).1, ?_, ?_⟩, fun k => ⟨?_, ?_⟩⟩
  · exact ht.elim (·.trans (computed c).2.1) id
  · exact hm.elim (·.trans (computed c).2.2) id
  · exact ht.elim (·.trans (fixed k).1) id
  · exact hm.elim (·.trans (fixed k).2) id

theorem isInput_iff {f : FieldRec} : f.isInput = true ↔ f.kind = .input := by simp [FieldRec.isInput]

theorem kind_ne_fixed {f : FieldRec} (h : f.isInput = true) : f.kind ≠ .fixed := by
  rw [isInput_iff.mp h]; decide

/-! ## Contents keep their length (R32, R56, R57, R63, R65) -/

/-- A text padded with blanks or cut (00_scope.md, Characters and text). -/
theorem padCut_eq (n : Nat) (t : List Byte) : padCut n t = t.take n ++ List.replicate (n - t.length) blank := by
  rw [padCut, List.take_append, List.take_replicate, Nat.min_eq_left (Nat.sub_le _ _)]

@[simp] theorem padCut_length (n : Nat) (t : List Byte) : (padCut n t).length = n := by
  rw [padCut, List.length_take, List.length_append, List.length_replicate]
  omega

theorem placed_length (insert : Bool) {t : List Byte} {off : Nat} (h : off < t.length) (c : Byte) :
    (placed insert t off c).length = t.length := by
  cases insert with
  | true =>
    simp only [placed, if_true, insertAt, List.length_append, List.length_take, List.length_cons, List.length_dropLast,
      List.length_drop]
    omega
  | false => exact List.length_set

theorem deleteAt_length {t : List Byte} {off : Nat} (h : off < t.length) : (deleteAt t off).length = t.length := by
  simp only [deleteAt, List.length_append, List.length_take, List.length_drop, List.length_cons, List.length_nil]
  omega

theorem eraseFrom_length {t : List Byte} {off : Nat} (h : off < t.length) : (eraseFrom t off).length = t.length := by
  simp only [eraseFrom, List.length_append, List.length_take, List.length_replicate]
  omega

theorem padLeft_length {n : Nat} {t : List Byte} (h : t.length ≤ n) (c : Byte) : (padLeft n c t).length = n := by
  simp only [padLeft, List.length_append, List.length_replicate]
  omega

theorem stateText_length {len : Nat} (h : 1 ≤ len) (r : Result) : (stateText len r).length = len := by
  cases r with
  | undefined => exact padLeft_length h blank
  | _ => simp [stateText]

/-- A rule gives its target a content of the target's length (R96, R97). -/
theorem ruleResult_length {len : Nat} (h : 1 ≤ len) (r : Rule) (ops : List Operand) :
    (ruleResult r ops len).2.length = len := by
  unfold ruleResult
  split
  · exact stateText_length h _
  · dsimp only
    split
    · exact stateText_length h .undefined
    · unfold displayValue
      dsimp only
      split
      · next fits => exact padLeft_length fits blank
      · exact stateText_length h .overflow

/-! ## A sound instance -/

theorem mem_of_mem_inputsOn {x : FormInstance} {p : Nat} {f : FieldRec} (hf : f ∈ x.inputsOn p) : f ∈ x.fields :=
  List.mem_of_mem_filter ((List.mem_insertionSort _).mp hf)

section Sound

variable {x : FormInstance} (h : x.Sound)
include h

theorem FormInstance.Sound.laid : Laid x.defn := by
  obtain ⟨⟨valid, passed, -⟩, -⟩ := h
  exact laid_of_valid valid passed

theorem FormInstance.Sound.defn_mem {f : FieldRec} (hf : f ∈ x.fields) : f.defn ∈ x.defn.fields := by
  obtain ⟨-, ⟨defns, -⟩, -⟩ := h
  exact defns ▸ List.mem_map_of_mem hf

theorem FormInstance.Sound.record {f : FieldRec} (hf : f ∈ x.fields) : f.Sound x.defn := by
  obtain ⟨-, ⟨-, recs⟩, -⟩ := h
  exact recs f hf

/-- No two records of an instance have one number. -/
theorem FormInstance.Sound.field_ext {f g : FieldRec} (hf : f ∈ x.fields) (hg : g ∈ x.fields)
    (same : f.defn.number = g.defn.number) : f = g := by
  have nodup : (x.fields.map fun f => f.defn.number).Nodup := by
    have := h.laid.numbers
    obtain ⟨-, ⟨defns, -⟩, -⟩ := h
    rwa [← defns, List.map_map] at this
  exact List.inj_on_of_nodup_map nodup hf hg same

/-- Every position of a field lies in the form area. -/
theorem FormInstance.Sound.end_le {f : FieldRec} (hf : f ∈ x.fields) :
    1 ≤ f.defn.length ∧ f.start + f.defn.length ≤ Config.positions := by
  have row := h.laid.row _ (h.defn_mem hf)
  have columns := h.laid.columns _ (h.defn_mem hf)
  simp only [FieldRec.start, startOf, positionOf, Config.positions]
  omega

theorem FormInstance.Sound.start_lt {f : FieldRec} (hf : f ∈ x.fields) : f.start < Config.positions := by
  have := h.end_le hf
  omega

theorem FormInstance.Sound.firstStart_lt {fs : List FieldRec} (sub : ∀ f ∈ fs, f ∈ x.fields) :
    firstStart fs < Config.positions := by
  cases fs with
  | nil => exact Nat.zero_lt_succ _
  | cons f fs => exact h.start_lt (sub f List.mem_cons_self)

/-! ### Changes of the records -/

/-- Records changed one by one, each staying sound under its definition. -/
theorem FormInstance.Sound.mapFields {g : FieldRec → FieldRec}
    (hg : ∀ f ∈ x.fields, (g f).defn = f.defn ∧ (g f).Sound x.defn) :
    FormInstance.Sound { x with fields := x.fields.map g } := by
  obtain ⟨copy, ⟨defns, -⟩, page, cursor⟩ := h
  refine ⟨copy, ⟨?_, fun f hf => ?_⟩, page, cursor⟩
  · rw [← defns, List.map_map]
    exact List.map_congr_left fun f hf => (hg f hf).1
  · obtain ⟨e, he, rfl⟩ := List.mem_map.mp hf
    exact (hg e he).2

theorem FormInstance.Sound.modFields {which : FieldRec → Bool} {g : FieldRec → FieldRec}
    (hg : ∀ f ∈ x.fields, which f = true → (g f).defn = f.defn ∧ (g f).Sound x.defn) :
    (x.modFields which g).Sound := by
  refine h.mapFields fun f hf => ?_
  split
  · next chosen => exact hg f hf chosen
  · exact ⟨rfl, h.record hf⟩

theorem FormInstance.Sound.modField {n : Nat} {g : FieldRec → FieldRec}
    (hg : ∀ f ∈ x.fields, f.defn.number = n → (g f).defn = f.defn ∧ (g f).Sound x.defn) :
    (x.modField n g).Sound := by
  refine h.mapFields fun f hf => ?_
  split
  · next same => exact hg f hf same
  · exact ⟨rfl, h.record hf⟩

/-- A rule that is run sets the result and the content of a computed field (R88). -/
theorem FormInstance.Sound.runRule {r : Rule} (hr : r ∈ x.defn.rules) : (x.runRule r).Sound := by
  refine h.modField fun f hf same => ⟨rfl, ?_⟩
  have hd := h.defn_mem hf
  obtain ⟨-, -, computed, fixed⟩ := h.record hf
  have target : isComputedDef x.defn f.defn = true :=
    isComputedDef_iff.mpr ⟨h.laid.targets r hr _ hd same, r, hr, same.symm⟩
  exact ⟨ruleResult_length (h.laid.columns _ hd).2.1 _ _, target.symm, computed, fixed⟩

theorem FormInstance.Sound.runRules (ns : List Nat) : (x.runRules ns).Sound := by
  induction ns generalizing x with
  | nil => exact h
  | cons n ns ih =>
    unfold FormInstance.runRules
    split
    · next r found => exact ih (h.runRule (List.mem_of_find?_eq_some found))
    · exact ih h

theorem FormInstance.Sound.recompute (changed : List Nat) : (x.recompute changed).Sound := h.runRules _

theorem FormInstance.Sound.recomputeAll : x.recomputeAll.Sound := h.runRules _

/-- An input field may be marked (R35). -/
theorem FormInstance.Sound.mark {f : FieldRec} (hf : f ∈ x.fields) (input : f.isInput = true) (m : Mark) :
    (x.mark f.defn.number m).Sound := by
  refine h.modField fun g hg same => ⟨rfl, ?_⟩
  obtain rfl := h.field_ext hg hf same
  have sound := h.record hg
  exact sound.refilled rfl rfl sound.1 (sound.not_computed input) fun fixed => absurd fixed (kind_ne_fixed input)

/-- The fields that fail at a full send are input fields (R84). -/
theorem FormInstance.Sound.markFailing : x.markFailing.Sound := by
  refine h.mapFields fun f hf => ?_
  have sound := h.record hf
  split
  · next input =>
    split
    · exact ⟨rfl, sound.refilled rfl rfl sound.1 (sound.not_computed input) fun fixed =>
        absurd fixed (kind_ne_fixed input)⟩
    · exact ⟨rfl, sound⟩
  · exact ⟨rfl, sound⟩

/-- An input field may take any content of its length (R58, R63, R65, R111). -/
theorem FormInstance.Sound.edit {f : FieldRec} (hf : f ∈ x.fields) (input : f.isInput = true) {t : List Byte}
    (length : t.length = f.defn.length) (marking : Option Mark → Option Mark) :
    (x.edit f.defn.number t marking).Sound := by
  refine FormInstance.Sound.recompute ?_ _
  refine h.modField fun g hg same => ⟨rfl, ?_⟩
  obtain rfl := h.field_ext hg hf same
  have sound := h.record hg
  exact sound.refilled rfl rfl length (sound.not_computed input) fun fixed => absurd fixed (kind_ne_fixed input)

/-- Input fields may be blanked (R66, R139). -/
theorem FormInstance.Sound.eraseInputs (which : FieldRec → Bool) : (x.eraseInputs which).Sound := by
  refine FormInstance.Sound.recompute ?_ _
  refine h.modFields fun f hf chosen => ⟨rfl, ?_⟩
  have input : f.isInput = true := (Bool.and_eq_true_iff.mp chosen).1
  have sound := h.record hf
  exact sound.refilled rfl rfl (padCut_length _ _) (sound.not_computed input) fun _ => ⟨rfl, rfl⟩

/-! ### Changes of the page and the cursor -/

theorem FormInstance.Sound.setCursor {p : Nat} (hp : p < Config.positions) :
    FormInstance.Sound { x with cursor := p } := by
  obtain ⟨copy, fields, page, -⟩ := h
  exact ⟨copy, fields, page, hp⟩

theorem FormInstance.Sound.setInsert (on : Bool) : FormInstance.Sound { x with insert := on } := h

theorem FormInstance.Sound.settle (up : Bool) : (x.settle up).Sound := h

end Sound

theorem addPage_getLsbD (visited : BitVec 4) {p : Nat} (lo : 1 ≤ p) (hi : p ≤ Config.pages) :
    (addPage visited p).getLsbD (p - 1) = true := by
  have : p - 1 < 4 := by simp only [Config.pages] at hi; omega
  simp [addPage, this]

/-- A page of the form becomes a visited current page (R38, R43). -/
theorem FormInstance.Sound.setPage {x : FormInstance} (h : x.Sound) {p : Nat} (lo : 1 ≤ p) (hi : p ≤ x.defn.pages)
    (visited : BitVec 4) : FormInstance.Sound { x with page := p, visited := addPage visited p } := by
  have pages := h.laid.pages.2
  obtain ⟨copy, fields, -, cursor⟩ := h
  exact ⟨copy, fields, ⟨lo, hi, pages, addPage_getLsbD _ lo (hi.trans pages)⟩, cursor⟩

section Sound

variable {x : FormInstance} (h : x.Sound)
include h

theorem FormInstance.Sound.turnTo {p : Nat} (lo : 1 ≤ p) (hi : p ≤ x.defn.pages) : (x.turnTo p).Sound :=
  (h.setPage lo hi x.visited).setCursor (h.firstStart_lt fun _ => mem_of_mem_inputsOn)

theorem FormInstance.Sound.homeTo_lt : x.homeTo < Config.positions :=
  h.firstStart_lt fun _ => mem_of_mem_inputsOn

theorem FormInstance.Sound.tabFrom_lt (p : Nat) : x.tabFrom p < Config.positions := by
  unfold FormInstance.tabFrom
  split
  · next f found => exact h.start_lt (mem_of_mem_inputsOn (List.mem_of_find?_eq_some found))
  · exact h.homeTo_lt

/-- What is found at a position of the current page is a record of the instance that covers it. -/
theorem FormInstance.Sound.inputAtCursor {f : FieldRec} (hf : x.inputAtCursor = some f) :
    f ∈ x.fields ∧ f.isInput = true ∧ f.start ≤ x.cursor ∧ x.cursor - f.start < f.content.length := by
  unfold FormInstance.inputAtCursor at hf
  split at hf
  · next g found =>
    split at hf
    · next input =>
      cases hf
      have mem := List.mem_of_find?_eq_some found
      have covers := List.find?_some found
      simp only [FieldRec.covers, Bool.and_eq_true, decide_eq_true_eq] at covers
      have length := (h.record mem).1
      exact ⟨mem, input, covers.2.1, by omega⟩
    · cases hf
  · cases hf

theorem FormInstance.Sound.backtabTo_lt : x.backtabTo < Config.positions := by
  have previous : ∀ o : Option FieldRec, (∀ f, o = some f → f ∈ x.fields) →
      (match o with | some f => f.start | none => firstStart x.ring.reverse) < Config.positions := by
    intro o mem
    cases o with
    | none => exact h.firstStart_lt fun f hf => mem_of_mem_inputsOn (List.mem_reverse.mp hf)
    | some f => exact h.start_lt (mem f rfl)
  have lt := previous (x.ring.filter fun f => decide (f.start < x.cursor)).getLast? fun f found =>
    mem_of_mem_inputsOn (List.mem_of_mem_filter (List.mem_of_getLast? found))
  unfold FormInstance.backtabTo
  dsimp only
  split
  · next f found =>
    split
    · exact h.start_lt (h.inputAtCursor found).1
    · exact lt
  · exact lt

theorem FormInstance.Sound.newlineTo_lt : x.newlineTo < Config.positions := by
  unfold FormInstance.newlineTo
  split
  · next f found => exact h.start_lt (mem_of_mem_inputsOn (List.mem_of_find?_eq_some found))
  · split
    · have := Nat.mod_lt (rowOf x.cursor) (show 23 > 0 by decide)
      simp only [Config.positions]
      omega
    · exact h.homeTo_lt

end Sound

theorem rightOf_lt (p : Nat) : rightOf p < Config.positions := Nat.mod_lt _ (by decide)
theorem leftOf_lt (p : Nat) : leftOf p < Config.positions := Nat.mod_lt _ (by decide)
theorem downOf_lt (p : Nat) : downOf p < Config.positions := Nat.mod_lt _ (by decide)
theorem upOf_lt (p : Nat) : upOf p < Config.positions := Nat.mod_lt _ (by decide)

end Sys2Proof.Machine
end

section
/-! The form instance through the events of a station: keying, sends, scans and orders leave it sound. -/

namespace Sys2Proof.Machine

/-! ## Keying -/

/-- The instance that the event's station holds, if it holds one, is sound. -/
def Act.FormSound (a : Act) : Prop := a.station.FormSound

theorem Act.FormSound.of_form {a b : Act} (h : a.FormSound) (same : b.station.form = a.station.form) : b.FormSound :=
  fun x hx => h x (same ▸ hx)

theorem Station.FormSound.of_form {a b : Station} (h : a.FormSound) (same : b.form = a.form) : b.FormSound :=
  fun x hx => h x (same ▸ hx)

/-- Settling set or cleared on the instance, if there is one. -/
theorem Station.FormSound.settled {a b : Station} (h : a.FormSound) {up : Bool}
    (same : b.form = a.form.map fun x => x.settle up) : b.FormSound := by
  intro y hy
  rw [same] at hy
  obtain ⟨x, hx, rfl⟩ := Option.map_eq_some_iff.mp hy
  exact (h x hx).settle up

theorem Act.formSound_of_some {a : Act} {x : FormInstance} (form : a.station.form = some x) (h : x.Sound) :
    a.FormSound := by
  intro y hy
  rw [form] at hy
  cases hy
  exact h

theorem Act.formSound_putForm (a : Act) {x : FormInstance} (h : x.Sound) : (a.putForm x).FormSound :=
  Act.formSound_of_some rfl h

theorem Act.FormSound.inhibit {a : Act} (h : a.FormSound) (r : Reason) : (a.inhibit r).FormSound := h

/-- The fields that fail a full send are records of the instance (R84, R119). -/
theorem mem_of_mem_failing {x : FormInstance} {f : FieldRec} {m : Mark} (failed : (f, m) ∈ x.failing) : f ∈ x.fields := by
  obtain ⟨g, hg, e⟩ := List.mem_filterMap.mp failed
  split at e
  · obtain ⟨m', -, e⟩ := Option.map_eq_some_iff.mp e
    cases e
    exact (List.mem_insertionSort _).mp hg
  · cases e

section Keying

variable {x : FormInstance} (h : x.Sound)
include h

/-- A guarded departure fails on an input field of the instance (R59). -/
theorem FormInstance.Sound.departure {inside : FieldRec → Bool} {n : Nat} {m : Mark}
    (failed : x.departure inside = some (n, m)) : (x.mark n m).Sound := by
  unfold FormInstance.departure at failed
  split at failed
  · cases failed
  · next f found =>
    split at failed
    · obtain ⟨m', -, e⟩ := Option.map_eq_some_iff.mp failed
      cases e
      obtain ⟨mem, input, -, -⟩ := h.inputAtCursor found
      exact h.mark mem input m
    · cases failed

theorem Act.formSound_move (a : Act) {dest : Nat} (hd : dest < Config.positions) : (a.move x dest).FormSound := by
  unfold Act.move
  split
  · next failed => exact a.formSound_putForm (h.departure failed)
  · exact a.formSound_putForm (h.setCursor hd)

theorem Act.formSound_advance (a : Act) (f : FieldRec) (off : Nat) : (a.advance x f off).FormSound := by
  unfold Act.advance
  split
  · exact Act.formSound_move h _ (h.tabFrom_lt _)
  · exact a.formSound_putForm (h.setCursor (rightOf_lt _))

theorem Act.formSound_enterChar {a : Act} (ha : a.FormSound) (key : Byte) : (a.enterChar x key).FormSound := by
  unfold Act.enterChar
  split
  · exact ha.inhibit _
  · next f found =>
    obtain ⟨mem, input, -, inside⟩ := h.inputAtCursor found
    dsimp only
    split
    · exact a.formSound_putForm (h.mark mem input _)
    · split
      · exact ha.inhibit _
      · refine Act.formSound_advance (h.edit mem input ?_ _) a f _
        rw [placed_length x.insert inside]
        exact (h.record mem).1

/-- An edit of the content under the cursor that keeps its length (R63, R65). -/
theorem Act.formSound_editField {a : Act} (ha : a.FormSound) {change : List Byte → Nat → List Byte}
    (keeps : ∀ t off, off < t.length → (change t off).length = t.length) : (a.editField x change).FormSound := by
  unfold Act.editField
  split
  · exact ha.inhibit _
  · next f found =>
    obtain ⟨mem, input, -, inside⟩ := h.inputAtCursor found
    exact a.formSound_putForm (h.edit mem input ((keeps _ _ inside).trans (h.record mem).1) _)

theorem Act.formSound_delete {a : Act} (ha : a.FormSound) : (a.delete x).FormSound :=
  Act.formSound_editField h ha fun _ _ => deleteAt_length

theorem Act.formSound_backspace {a : Act} (ha : a.FormSound) : (a.backspace x).FormSound := by
  unfold Act.backspace
  split
  · split
    · exact Act.formSound_delete (h.setCursor (leftOf_lt _)) ha
    · exact Act.formSound_move h a (leftOf_lt _)
  · exact Act.formSound_move h a (leftOf_lt _)

theorem Act.formSound_eraseInput (a : Act) : (a.eraseInput x).FormSound := by
  have erased := h.eraseInputs fun f => f.defn.page == x.page
  exact a.formSound_putForm (erased.setCursor erased.homeTo_lt)

theorem Act.formSound_switchPage (a : Act) {p : Nat} (lo : 1 ≤ p) (hi : p ≤ x.defn.pages) :
    (a.switchPage x p).FormSound :=
  Act.formSound_of_some rfl ((h.turnTo lo hi).settle _)

theorem FormInstance.Sound.page : 1 ≤ x.page ∧ x.page ≤ x.defn.pages := by
  obtain ⟨-, -, ⟨lo, hi, -⟩, -⟩ := h
  exact ⟨lo, hi⟩

/-- A page key's target is a page of the form (R68). -/
theorem FormInstance.Sound.nextPage {p : Nat} (target : x.nextPage = some p) : 1 ≤ p ∧ p ≤ x.defn.pages := by
  have pages := h.laid.pages.1
  unfold FormInstance.nextPage at target
  split at target
  · cases target
    omega
  · split at target
    · cases target
      exact ⟨le_rfl, pages⟩
    · cases target

theorem FormInstance.Sound.priorPage {p : Nat} (target : x.priorPage = some p) : 1 ≤ p ∧ p ≤ x.defn.pages := by
  have pages := h.laid.pages.1
  have page := h.page
  unfold FormInstance.priorPage at target
  split at target
  · cases target
    omega
  · split at target
    · cases target
      exact ⟨pages, le_rfl⟩
    · cases target

theorem Act.formSound_pageKey {a : Act} (ha : a.FormSound) {target : Option Nat}
    (page : ∀ p, target = some p → 1 ≤ p ∧ p ≤ x.defn.pages) : (a.pageKey x target).FormSound := by
  unfold Act.pageKey
  split
  · exact ha
  · next p =>
    split
    · next failed => exact a.formSound_putForm (h.departure failed)
    · exact Act.formSound_switchPage h a (page p rfl).1 (page p rfl).2

/-! ## Sends -/

theorem Act.formSound_compose (a : Act) (i : StationId) (k : SendKey) (full : Bool) :
    (a.compose i k full x).FormSound := by
  obtain ⟨station, -, -⟩ := a.compose_station i k full x
  exact Act.formSound_of_some (by rw [station]) h

theorem Act.formSound_failSend (a : Act) {f : FieldRec} (hf : f ∈ x.fields) (m : Mark) :
    (a.failSend x f m).FormSound := by
  have page := h.laid.page _ (h.defn_mem hf)
  have start := h.start_lt hf
  unfold Act.failSend
  dsimp only
  split
  · exact Act.formSound_of_some rfl (h.markFailing.setCursor start)
  · exact Act.formSound_of_some rfl (((h.markFailing.turnTo page.1 page.2).settle _).setCursor start)

theorem Act.formSound_fullSend (a : Act) (i : StationId) (k : SendKey) : (a.fullSend i k x).FormSound := by
  unfold Act.fullSend
  split
  · exact Act.formSound_compose h a i k true
  · next f m rest failing =>
    exact Act.formSound_failSend h a (mem_of_mem_failing (failing ▸ List.mem_cons_self)) m

theorem Act.formSound_functionSend (a : Act) (i : StationId) (n : Fin 12) : (a.functionSend i n x).FormSound := by
  unfold Act.functionSend
  split
  · exact Act.formSound_compose h a i _ false
  · exact Act.formSound_fullSend h a i _

/-- CLEAR restores input fields to their default texts and clears marks (R125, log 23). -/
theorem FormInstance.Sound.restore : x.restore.Sound := by
  have fields : FormInstance.Sound { x with fields := x.fields.map FieldRec.restored } := by
    refine h.mapFields fun f hf => ?_
    have sound := h.record hf
    unfold FieldRec.restored
    split
    · next input =>
      exact ⟨rfl, sound.refilled rfl rfl (padCut_length _ _) (sound.not_computed input) fun _ => ⟨rfl, rfl⟩⟩
    · exact ⟨rfl, sound.cleared (.inl rfl) (.inr rfl)⟩
  have computed := fields.recomputeAll
  have turned := computed.setPage le_rfl computed.laid.pages.1 0#4
  exact turned.setCursor turned.homeTo_lt

/-- A send is refused for an occupied slot, or goes on (R116, R118). -/
theorem Act.formSound_send {a : Act} {go : Act → FormInstance → Act}
    (sent : ∀ y : FormInstance, y.Sound → (go a y).FormSound) : (a.send x go).FormSound := by
  obtain ⟨-, refused⟩ | ⟨-, goes⟩ := a.send_cases x go
  · rw [Act.Refused] at refused
    exact Act.formSound_of_some (by rw [refused]; rfl) (h.setInsert false)
  · rw [goes]
    exact sent _ (h.setInsert false)

/-! ## Scans -/

/-- A routed scan goes to an input field of the instance (R108, R109). -/
theorem FormInstance.Sound.routed {routes : Table RouteDef} {text stripped : List Byte} {f : FieldRec}
    (route : x.routed routes text = some (f, stripped)) : f ∈ x.fields ∧ f.isInput = true := by
  unfold FormInstance.routed at route
  split at route
  · next r found =>
    obtain ⟨g, target, e⟩ := Option.map_eq_some_iff.mp route
    cases e
    unfold FormInstance.targetOf at target
    split at target
    · obtain ⟨mem, input, -⟩ := h.inputAtCursor target
      exact ⟨mem, input⟩
    · split at target
      · next g named =>
        split at target
        · next input =>
          cases target
          exact ⟨List.mem_of_find?_eq_some named, input⟩
        · cases target
      · cases target
  · cases route

theorem Act.formSound_placeScan (a : Act) {f : FieldRec} (hf : f ∈ x.fields) (input : f.isInput = true)
    (text : List Byte) : (a.placeScan x f text).FormSound := by
  have edited := (h.edit hf input (padCut_length f.defn.length text) fun _ => none).setCursor (h.start_lt hf)
  exact Act.formSound_move edited _ (edited.tabFrom_lt _)

/-- The page switch of a routed scan keeps the records (R110). -/
theorem Act.toPage_sound (a : Act) {p : Nat} (lo : 1 ≤ p) (hi : p ≤ x.defn.pages) :
    (a.toPage x p).2.Sound ∧ (a.toPage x p).2.fields = x.fields := by
  unfold Act.toPage
  split
  · exact ⟨h, rfl⟩
  · exact ⟨(h.turnTo lo hi).settle _, rfl⟩

theorem Act.formSound_route (a : Act) {f : FieldRec} (hf : f ∈ x.fields) (input : f.isInput = true)
    (text : List Byte) : (a.route x f text).FormSound := by
  unfold Act.route
  split
  · next failed => exact a.formSound_putForm (h.departure failed)
  · have page := h.laid.page _ (h.defn_mem hf)
    obtain ⟨sound, fields⟩ := Act.toPage_sound h a page.1 page.2
    exact Act.formSound_placeScan sound _ (fields ▸ hf) input text

end Keying

theorem Act.FormSound.wedge {a : Act} (ha : a.FormSound) (cs : List Byte) : (a.wedge cs).FormSound := by
  induction cs generalizing a with
  | nil => exact ha
  | cons c cs ih =>
    unfold Act.wedge
    split
    · next x _ form => exact ih (Act.formSound_enterChar (ha x form) ha c)
    · exact ha

theorem Act.formSound_scanItem {a : Act} (ha : a.FormSound) {x : FormInstance} (h : x.Sound)
    (routes : Table RouteDef) (text : List Byte) : (a.scanItem routes x text).FormSound := by
  unfold Act.scanItem
  split
  · next f stripped route =>
    obtain ⟨mem, input⟩ := h.routed route
    exact Act.formSound_route h a mem input stripped
  · unfold Act.fallback
    split
    · exact ha.inhibit _
    · exact ha.wedge text

/-! ## Every item -/

/-- Acting on an item leaves the instance sound. -/
theorem Act.formSound_itemAct (l : Library) (i : StationId) (it : Item) {a : Act} (ha : a.FormSound)
    {x : FormInstance} (h : x.Sound) : (itemAct l i it a x).FormSound := by
  cases it with
  | char c => exact Act.formSound_enterChar h ha c
  | edit k =>
    cases k with
    | insert => exact a.formSound_putForm (h.setInsert _)
    | delete => exact Act.formSound_delete h ha
    | backspace => exact Act.formSound_backspace h ha
    | eraseField => exact Act.formSound_editField h ha fun _ _ => eraseFrom_length
    | eraseInput => exact Act.formSound_eraseInput h a
  | move k =>
    cases k with
    | tab => exact Act.formSound_move h a (h.tabFrom_lt _)
    | backtab => exact Act.formSound_move h a h.backtabTo_lt
    | up => exact Act.formSound_move h a (upOf_lt _)
    | down => exact Act.formSound_move h a (downOf_lt _)
    | left => exact Act.formSound_move h a (leftOf_lt _)
    | right => exact Act.formSound_move h a (rightOf_lt _)
    | home => exact Act.formSound_move h a h.homeTo_lt
    | newline => exact Act.formSound_move h a h.newlineTo_lt
    | pageNext => exact Act.formSound_pageKey h ha fun _ => h.nextPage
    | pagePrior => exact Act.formSound_pageKey h ha fun _ => h.priorPage
  | reset => exact Act.formSound_of_some rfl (h.setInsert false)
  | intent k =>
    cases k with
    | enter => exact Act.formSound_send h fun y hy => Act.formSound_fullSend hy a i _
    | function n => exact Act.formSound_send h fun y hy => Act.formSound_functionSend hy a i n
    | cancel => exact Act.formSound_send h fun y hy => Act.formSound_compose hy a i _ false
    | clear => exact Act.formSound_send h fun y hy => Act.formSound_compose hy.restore a i _ false
  | scan text => exact Act.formSound_scanItem ha h l.routes text

theorem Act.formSound_takeItem (l : Library) (i : StationId) (it : Item) {a : Act} (ha : a.FormSound)
    {x : FormInstance} (h : x.Sound) : (a.takeItem it x (itemAct l i it)).FormSound := by
  have dropped : a.dropHead.FormSound := ha
  by_cases free : a.station.keyboard = .free
  · rw [Act.takeItem_free it x _ free]
    exact Act.formSound_itemAct l i it dropped h
  · unfold Act.takeItem
    split
    · next e => exact absurd e free
    all_goals
      split
      · exact Act.formSound_of_some rfl (h.setInsert false)
      · exact dropped

/-! ## Orders -/

/-- The class a field of the form names is found among the copied classes as in the class table (R8). -/
theorem lookupKey_copiedClasses {d : FormDef} {f : FieldDef} (hf : f ∈ d.fields) (classes : Table ClassDef) :
    lookupKey f.cls (copiedClasses d classes) = lookupKey f.cls classes := by
  induction classes with
  | nil => rfl
  | cons e classes ih =>
    obtain ⟨k, c⟩ := e
    unfold copiedClasses at ih ⊢
    rw [List.filter_cons, lookupKey_cons]
    by_cases named : f.cls = k
    · have kept : (d.fields.any fun g => g.cls == k) = true := by simpa using ⟨f, hf, named⟩
      rw [if_pos kept, lookupKey_cons]
      simp [named]
    · rw [if_neg named]
      split
      · rw [lookupKey_cons, if_neg named, ih]
      · exact ih

/-- The checks of a form read the classes of its fields alone, so the copied classes pass it as the table does. -/
theorem formOffence_copiedClasses {d : FormDef} {classes : Table ClassDef} (h : formOffence classes d = none) :
    formOffence (copiedClasses d classes) d = none := by
  have found {f : FieldDef} (hf : f ∈ d.fields) :
      lookupKey f.cls (copiedClasses d classes) = lookupKey f.cls classes := lookupKey_copiedClasses hf classes
  obtain ⟨level, fields, rules, cycle⟩ := formOffence_eq_none.mp h
  refine formOffence_eq_none.mpr ⟨level, fieldOffence_eq_none.mpr fun f hf => ?_,
    ruleOffence_eq_none.mpr fun r hr => ?_, cycle⟩
  · rw [← fieldOffence_eq_none.mp fields f hf]
    simp only [fieldCause, classMissing, defClass, found hf]
  · rw [← ruleOffence_eq_none.mp rules r hr]
    have sources : sourceBad (copiedClasses d classes) d = sourceBad classes d := by
      funext n
      unfold sourceBad
      split
      · rfl
      · next f named => simp only [defClass, found (List.mem_of_find?_eq_some named)]
    simp only [ruleCause, sources]

/-- A record as SHOW builds it is sound (R36). -/
theorem freshField_sound (d : FormDef) (f : FieldDef) : (freshField d f).Sound d := by
  refine ⟨padCut_length _ _, ?_, fun _ => ⟨rfl, rfl, rfl⟩, fun _ => ⟨rfl, rfl⟩⟩
  show Option.isSome (if isComputedDef d f = true then some Result.blank else none) = isComputedDef d f
  cases isComputedDef d f <;> rfl

theorem mem_of_lookupKey {α : Type} {k : Nat} {t : Table α} {v : α} (h : lookupKey k t = some v) : (k, v) ∈ t := by
  rw [lookupKey_eq_find?] at h
  obtain ⟨e, found, rfl⟩ := Option.map_eq_some_iff.mp h
  have key : e.1 = k := by simpa using List.find?_some found
  exact key ▸ List.mem_of_find?_eq_some found

/-- What SHOW builds from a form of a sound library (R36). -/
theorem newInstance_sound {l : Library} (ranges : l.RangesSound) (active : l.ActiveSound) {number : Nat}
    {a : ActiveForm} (found : lookupKey number l.forms = some a) (generation : Nat) (settling : Bool) :
    (newInstance number generation a l.classes settling).Sound := by
  have mem := mem_of_lookupKey found
  obtain ⟨valid, -⟩ := ranges
  obtain ⟨passed, -, order⟩ := active
  have view : (number, a.defn) ∈ l.view.forms := List.mem_map_of_mem (f := fun e => (e.1, e.2.defn)) mem
  have offence : formOffence l.classes a.defn = none := View.forms_of_offence passed _ view
  have pages := formValid_pages (valid _ mem)
  have bare : (bareInstance number generation a l.classes settling).Sound := by
    refine ⟨⟨valid _ mem, formOffence_copiedClasses offence, order _ mem⟩, ⟨?_, fun f hf => ?_⟩,
      ⟨le_rfl, pages.1, pages.2, addPage_getLsbD 0#4 le_rfl (by decide)⟩, Nat.zero_lt_succ _⟩
    · exact (List.map_map ..).trans (List.map_id _)
    · obtain ⟨d, -, rfl⟩ := List.mem_map.mp hf
      exact freshField_sound a.defn d
  have computed := bare.recomputeAll
  refine computed.setCursor ?_
  unfold FormInstance.initialCursor
  split
  · next f initial =>
    obtain ⟨n, -, named⟩ := Option.bind_eq_some_iff.mp initial
    exact computed.start_lt (List.mem_of_find?_eq_some named)
  · exact computed.firstStart_lt fun _ => mem_of_mem_inputsOn

section Writing

variable {x : FormInstance} (h : x.Sound)
include h

/-- An update that is not skipped falls on a field that is not computed (R140). -/
theorem FormInstance.Sound.update {policy : Policy} {k : Keyboard} {u : Update}
    (taken : skipReason policy k x u = none) : (x.modField u.field fun f => f.updated u).Sound := by
  unfold skipReason at taken
  split at taken
  · cases taken
  · next f found =>
    have mem := List.mem_of_find?_eq_some found
    have number : f.defn.number = u.field := by simpa using List.find?_some found
    split at taken
    · cases taken
    · next free =>
      refine h.modField fun g hg same => ⟨rfl, ?_⟩
      obtain rfl := h.field_ext hg mem (same.trans number.symm)
      exact (h.record hg).refilled rfl rfl (padCut_length _ _) (Bool.eq_false_of_not_eq_true free)
        fun _ => ⟨rfl, rfl⟩

theorem FormInstance.Sound.clearMarks : (x.modFields (fun _ => true) fun f => { f with mark := none }).Sound :=
  h.modFields fun _ hf _ => ⟨rfl, (h.record hf).cleared (.inl rfl) (.inr rfl)⟩

theorem FormInstance.Sound.resetTouched :
    (x.modFields (fun _ => true) fun f => { f with touched := false }).Sound :=
  h.modFields fun _ hf _ => ⟨rfl, (h.record hf).cleared (.inr rfl) (.inl rfl)⟩

theorem FormInstance.Sound.writeCursor (c : Option (Nat × Nat)) : (x.writeCursor c).Sound := by
  unfold FormInstance.writeCursor
  split
  · exact h
  · split
    · next f named =>
      have := h.end_le (List.mem_of_find?_eq_some named)
      exact h.setCursor (by omega)
    · exact h

theorem FormInstance.Sound.hostTurn (a : Act) {p : Nat} (lo : 1 ≤ p) (hi : p ≤ x.defn.pages) :
    (a.hostTurn x p).Sound := by
  unfold Act.hostTurn
  split
  · exact (h.turnTo lo hi).settle _
  · exact h.turnTo lo hi

end Writing

theorem Written.update_sound {policy : Policy} {k : Keyboard} {w : Written} (h : w.form.Sound) (u : Update) :
    (w.update policy k u).form.Sound := by
  unfold Written.update
  split
  · exact h
  · next taken => exact (h.update taken).recompute _

theorem Written.updates_sound {policy : Policy} {k : Keyboard} (us : List Update) {w : Written} (h : w.form.Sound) :
    (us.foldl (Written.update policy k) w).form.Sound := by
  induction us generalizing w with
  | nil => exact h
  | cons u us ih => exact ih (Written.update_sound h u)

/-- Steps 1 to 4 of a WRITE leave the instance sound (R139). -/
theorem writeFields_sound (w : WriteOrder) (policy : Policy) (k : Keyboard) {x : FormInstance} (h : x.Sound) :
    (writeFields w policy k x).form.Sound := by
  have erased : (if w.eraseInput then x.eraseInputs fun _ => true else x).Sound := by
    split
    · exact h.eraseInputs _
    · exact h
  have updated := Written.updates_sound (policy := policy) (k := k) w.updates (w := ⟨_, [], []⟩) erased
  unfold writeFields
  dsimp only
  split
  · split
    · exact updated.clearMarks.resetTouched
    · exact updated.resetTouched
  · split
    · exact updated.clearMarks
    · exact updated

/-- Steps 5 to 8 of a WRITE leave the instance sound (R139). -/
theorem Act.formSound_writeRest (a : Act) (w : WriteOrder) {x : FormInstance} (h : x.Sound)
    (page : ∀ p, w.page = some p → 1 ≤ p ∧ p ≤ x.defn.pages) : (a.writeRest w x).FormSound := by
  have turned : (match w.page with | some p => a.hostTurn x p | none => x).Sound := by
    split
    · next p named => exact h.hostTurn a (page p named).1 (page p named).2
    · exact h
  have placed := turned.writeCursor w.cursor
  have restored (b : Act) {y : FormInstance} (hy : y.Sound) :
      (if w.restore then b.restore y else b.putForm y).FormSound := by
    split
    · exact Act.formSound_of_some rfl (hy.setInsert false)
    · exact b.formSound_putForm hy
  unfold Act.writeRest
  dsimp only
  split
  · split
    · exact (restored _ placed).of_form rfl
    · exact restored _ placed
  · exact restored _ placed

theorem writeValid_page {w : WriteOrder} (valid : writeValid w = true) {p : Nat} (named : w.page = some p) : 1 ≤ p := by
  simp only [writeValid, Bool.and_eq_true, named, Option.all_some, inRange, decide_eq_true_eq] at valid
  exact valid.1.1.1.1

theorem Act.startTimer_form (a : Act) : a.startTimer.station.form = a.station.form := by
  unfold Act.startTimer
  split <;> rfl

/-- Every applied order leaves the instance sound. -/
theorem OrderMove.formSound {l : Library} {i : StationId} {flags : BitVec 8} {st : Station} {a : Act}
    (move : OrderMove l i flags st a) (ranges : l.RangesSound) (active : l.ActiveSound) (h : st.FormSound) :
    a.FormSound := by
  cases move with
  | shown hold _ found => exact Act.formSound_of_some rfl (newInstance_sound ranges active found _ _)
  | wrote valid _ form pages _ =>
    refine Act.formSound_writeRest _ _ (writeFields_sound _ _ _ (h _ form)) fun p named => ?_
    rw [writeFields_defn]
    exact ⟨writeValid_page valid named, pages p named⟩
  | noticed _ _ _ _ => exact h
  | held _ _ => exact h
  | released _ _ => exact h
  | turned _ form lo hi => exact Act.formSound_of_some rfl ((h _ form).hostTurn _ lo hi)
  | reread _ _ _ => exact h
  | set c _ => exact h
  | reset => exact fun _ e => nomatch e
  | suspended _ _ _ _ => exact h.settled rfl
  | resumed _ =>
    unfold Act.resume
    split
    · next x form =>
      refine Act.formSound_of_some ?_ ((h x form).settle st.line.up)
      split
      · exact Act.startTimer_form _
      · rfl
    · exact h
  | unchanged => exact h

/-! ## Every event -/

theorem ActMove.formSound {l : Library} {i : StationId} {flags : BitVec 8} {st : Station} {a : Act}
    (move : ActMove l i flags st a) (ranges : l.RangesSound) (active : l.ActiveSound) (h : st.FormSound) :
    a.FormSound := by
  cases move with
  | taken head =>
    obtain ⟨-, form, -⟩ := Station.head?_some head
    exact Act.formSound_takeItem l i _ (a := Act.start st) h (h _ form)
  | silent _ => exact h.settled rfl
  | sent _ =>
    unfold Act.transmitted
    dsimp only
    split
    · exact h.settled rfl
    · exact h
  | expires _ => exact h
  | collected _ => exact h
  | ordered valid order applied => exact (order_cases valid order applied).formSound ranges active h
  | partReset => exact fun _ e => nomatch e

theorem LineMove.form {st u : Station} (move : LineMove st u) : u.form = st.form := by
  cases move with
  | read r => rfl
  | parity => rfl
  | framing => rfl
  | accepted _ => exact (Act.arrived st _).form

theorem StationMove.formSound {l : Library} {i : StationId} {flags : BitVec 8} {st u : Station}
    (move : StationMove l i flags st u) (ranges : l.RangesSound) (active : l.ActiveSound) (h : st.FormSound) :
    u.FormSound := by
  cases move with
  | stays => exact h
  | power => exact fun _ e => nomatch e
  | event move => exact move.formSound ranges active h
  | heard moves =>
    induction moves with
    | refl => exact h
    | tail _ move ih => exact ih.of_form move.form

/-! ## The statement -/

/-- The field of a number is the first record that has it (log 17). -/
theorem FormInstance.field?_of_first {x : FormInstance} {n : Nat} {a b : List FieldRec} {f : FieldRec}
    (split : x.fields = a ++ f :: b) (before : ∀ g ∈ a, g.defn.number ≠ n) (number : f.defn.number = n) :
    x.field? n = some f := by
  have none : a.find? (fun g => g.defn.number == n) = none :=
    List.find?_eq_none.mpr fun g hg => by simpa using before g hg
  rw [FormInstance.field?, split, List.find?_append, none, List.find?_cons]
  simp [number]

theorem FormInstance.field?_eq_none {x : FormInstance} {n : Nat} (absent : ∀ f ∈ x.fields, f.defn.number ≠ n) :
    x.field? n = none :=
  List.find?_eq_none.mpr fun f hf => by simpa using absent f hf

/-- Settles O12: whatever a step makes of a station (`step_station`), the instance it holds is sound. -/
theorem stepKeepsFormInstances : Obligations.StepKeepsFormInstances := by
  refine ⟨fun s t ranges active forms h i => (step_station h i).formSound ranges active (forms i), fun f => ?_,
    padCut_eq, fun x n => ⟨fun f => isComputedDef_iff, FormInstance.field?_eq_none,
      fun a f b => FormInstance.field?_of_first, fun g => rfl⟩⟩
  constructor
  · intro none
    simp only [FieldRec.kind, FieldRec.bright, none, and_self]
  · intro o override
    simp only [FieldRec.kind, FieldRec.bright, override, and_self]

end Sys2Proof.Machine
end

section
/-! The encodings of chapter 11: for each kind of record, that its bytes are read back as it, and that nothing is read
but from its bytes. -/

namespace Sys2Proof.Machine

/-! ## Numbers and flags in a byte (R190) -/

@[simp] theorem byteOf_toNat (b : Byte) : byteOf b.toNat = b := by simp [byteOf]

theorem toNat_byteOf {n : Nat} (h : n ≤ 255) : (byteOf n).toNat = n :=
  Nat.mod_eq_of_lt (Nat.lt_succ_of_le h)

theorem flagByte_testBit (bs : List Bool) (i : Nat) : (flagByte bs).testBit i = bs.getD i false := by
  induction bs generalizing i with
  | nil => simp [flagByte]
  | cons b bs ih =>
    have split : flagByte (b :: bs) = b.toNat + 2 * flagByte bs := by cases b <;> rfl
    cases i with
    | zero => rw [split]; cases b <;> simp
    | succ i =>
      have half : (b.toNat + 2 * flagByte bs) / 2 = flagByte bs := by
        cases b
        · simp
        · simp only [Bool.toNat_true]; omega
      rw [split, Nat.testBit_succ, half, ih]
      rfl

/-- A flag is the bit of its place. -/
theorem flagByte_getLsbD (bs : List Bool) {i : Nat} (h : i < 8) :
    (byteOf (flagByte bs)).getLsbD i = bs.getD i false := by
  rw [byteOf, BitVec.getLsbD_ofNat, flagByte_testBit]
  simp [h]

theorem onlyBits_iff {k : Nat} {b : Byte} : onlyBits k b = true ↔ ∀ i, k ≤ i → b.getLsbD i = false := by
  rw [onlyBits, decide_eq_true_eq]
  constructor
  · intro lt i hi
    exact Nat.testBit_lt_two_pow (lt.trans_le (Nat.pow_le_pow_right (by decide) hi))
  · intro zero
    exact Nat.lt_pow_two_of_testBit _ zero

/-- Flags use the bits that are named and no others. -/
theorem onlyBits_flagByte (bs : List Bool) : onlyBits bs.length (byteOf (flagByte bs)) = true := by
  rw [onlyBits_iff]
  intro i hi
  by_cases h : i < 8
  · rw [flagByte_getLsbD bs h, List.getD_eq_default _ _ hi]
  · exact BitVec.getLsbD_of_ge _ _ (Nat.le_of_not_lt h)

/-- A byte of which only the low bits are named is the byte of those flags. -/
theorem flagByte_bits {k : Nat} {b : Byte} (h : onlyBits k b = true) :
    byteOf (flagByte ((List.range k).map b.getLsbD)) = b := by
  apply BitVec.eq_of_getLsbD_eq
  intro i hi
  rw [flagByte_getLsbD _ hi]
  by_cases lt : i < k
  · simp [lt]
  · rw [List.getD_eq_default _ _ (by simpa using lt)]
    exact (onlyBits_iff.mp h i (Nat.le_of_not_lt lt)).symm

/-! ## The bytes of a 16-bit number and of a limit (R190) -/

theorem extractLsb'_append_of_le {n : Nat} (x : BitVec n) (y : Byte) {s : Nat} (h : 8 ≤ s) :
    (x ++ y).extractLsb' s 8 = x.extractLsb' (s - 8) 8 := by
  apply BitVec.eq_of_getLsbD_eq
  intro i hi
  have high : ¬s + i < 8 := by omega
  simp [BitVec.getLsbD_append, high, hi, Nat.sub_add_comm h]

theorem halfBytes_halfOf (hi lo : Byte) : halfBytes (halfOf hi lo) = [hi, lo] := by
  simp only [halfBytes, halfOf, extractLsb'_append_of_le _ _ le_rfl, Nat.sub_self,
    BitVec.extractLsb'_append_eq_right, BitVec.extractLsb'_eq_self]

theorem halfOf_halfBytes (x : Half) : halfOf (x.extractLsb' 8 8) (x.extractLsb' 0 8) = x := by
  rw [halfOf, BitVec.extractLsb'_append_extractLsb'_eq_extractLsb' (by rfl)]
  exact BitVec.extractLsb'_eq_self

theorem limitBytes_limitOf (a b c d e f g h : Byte) : limitBytes (limitOf a b c d e f g h) = [a, b, c, d, e, f, g, h] := by
  simp only [limitBytes, limitOf, BitVec.ofInt_toInt, extractLsb'_append_of_le, Nat.reduceLeDiff, Nat.reduceSub,
    BitVec.extractLsb'_append_eq_right, BitVec.extractLsb'_eq_self]

theorem limitOf_extract (x : BitVec 64) :
    limitOf (x.extractLsb' 56 8) (x.extractLsb' 48 8) (x.extractLsb' 40 8) (x.extractLsb' 32 8) (x.extractLsb' 24 8)
      (x.extractLsb' 16 8) (x.extractLsb' 8 8) (x.extractLsb' 0 8) = x.toInt := by
  unfold limitOf
  iterate 7 rw [BitVec.extractLsb'_append_extractLsb'_eq_extractLsb' (by rfl)]
  exact congrArg BitVec.toInt BitVec.extractLsb'_eq_self

theorem limitValid_iff {v : Int} : limitValid v = true ↔ -999999999999999 ≤ v ∧ v ≤ 999999999999999 := by
  rw [limitValid, Bool.and_eq_true, decide_eq_true_eq, decide_eq_true_eq]
  rfl

/-- A limit within its bounds is the number that its eight bytes carry. -/
theorem limit_toInt {v : Int} (h : limitValid v = true) : (BitVec.ofInt 64 v).toInt = v := by
  have bounds := limitValid_iff.mp h
  exact BitVec.toInt_ofInt_eq_self (by decide) (by simp only [Nat.reduceSub]; omega) (by simp only [Nat.reduceSub]; omega)

/-! ## Codecs -/

/-- `enc` writes what `p` reads: a record that is `ok` is read back from its bytes with what follows them left over,
and whatever is read has been read from its bytes. -/
structure Codec {α : Type} (p : List Byte → Option (α × List Byte)) (enc : α → List Byte) (ok : α → Prop) : Prop where
  encode : ∀ a rest, ok a → p (enc a ++ rest) = some (a, rest)
  decode : ∀ bs a rest, p bs = some (a, rest) → bs = enc a ++ rest

theorem whole_some {α : Type} {o : Option (α × List Byte)} {a : α} : whole o = some a ↔ o = some (a, []) := by
  unfold whole
  split
  · next b => simp
  · next other =>
    constructor
    · intro e
      cases e
    · rintro rfl
      exact absurd rfl (other a)

namespace Codec

variable {α : Type} {p : List Byte → Option (α × List Byte)} {enc : α → List Byte} {ok : α → Prop}

theorem mono (c : Codec p enc ok) {ok' : α → Prop} (h : ∀ a, ok' a → ok a) : Codec p enc ok' :=
  ⟨fun a rest ha => c.encode a rest (h a ha), c.decode⟩

/-- A record alone, with nothing left over. -/
theorem whole_encode (c : Codec p enc ok) {a : α} (h : ok a) : whole (p (enc a)) = some a := by
  have read := c.encode a [] h
  rw [List.append_nil] at read
  exact whole_some.mpr read

theorem whole_decode (c : Codec p enc ok) {bs : List Byte} {a : α} (h : whole (p bs) = some a) : bs = enc a := by
  rw [c.decode bs a [] (whole_some.mp h), List.append_nil]

theorem many (c : Codec p enc ok) (l : List α) (rest : List Byte) (h : ∀ a ∈ l, ok a) :
    parseMany p l.length (l.flatMap enc ++ rest) = some (l, rest) := by
  induction l with
  | nil => rfl
  | cons a l ih =>
    obtain ⟨ha, hl⟩ := List.forall_mem_cons.mp h
    simp only [List.length_cons, parseMany, List.flatMap_cons, List.append_assoc, c.encode a _ ha, ih hl]

theorem of_many (c : Codec p enc ok) {n : Nat} {bs rest : List Byte} {l : List α}
    (h : parseMany p n bs = some (l, rest)) : l.length = n ∧ bs = l.flatMap enc ++ rest := by
  induction n generalizing bs l with
  | zero => cases h; exact ⟨rfl, rfl⟩
  | succ n ih =>
    simp only [parseMany] at h
    split at h
    · cases h
    · next a bs' first =>
      split at h
      · cases h
      · next as rest' others =>
        cases h
        obtain ⟨length, e⟩ := ih others
        refine ⟨congrArg (· + 1) length, ?_⟩
        rw [c.decode _ _ _ first, e, List.flatMap_cons, List.append_assoc]

/-- A list of records, its count before it (R190). -/
theorem list (c : Codec p enc ok) :
    Codec (parseList p) (listBytes enc) fun l => l.length ≤ 255 ∧ ∀ a ∈ l, ok a := by
  refine ⟨fun l rest ⟨few, all⟩ => ?_, fun bs l rest h => ?_⟩
  · show parseMany p (byteOf l.length).toNat (l.flatMap enc ++ rest) = _
    rw [toNat_byteOf few]
    exact c.many l rest all
  · cases bs with
    | nil => cases h
    | cons n bs =>
      obtain ⟨length, e⟩ := c.of_many h
      rw [listBytes, length, byteOf_toNat, e]
      rfl

end Codec

/-- A text, its length before it (R190). -/
theorem textCodec : Codec parseText textBytes fun t => t.length ≤ 255 := by
  refine ⟨fun t rest h => ?_, fun bs t rest h => ?_⟩
  · simp only [textBytes, List.cons_append, parseText, toNat_byteOf h, List.length_append, Nat.le_add_right, if_true,
      List.take_left', List.drop_left']
  · cases bs with
    | nil => cases h
    | cons n bs =>
      simp only [parseText] at h
      split at h
      · next fits =>
        cases h
        rw [textBytes, List.length_take, Nat.min_eq_left fits, byteOf_toNat, List.cons_append, List.take_append_drop]
      · cases h

/-- A number in one byte (R190). -/
theorem numberCodec : Codec parseNumber (fun n => [byteOf n]) fun n => n ≤ 255 := by
  refine ⟨fun n rest h => ?_, fun bs n rest h => ?_⟩
  · simp only [List.cons_append, List.nil_append, parseNumber, toNat_byteOf h]
  · cases bs with
    | nil => cases h
    | cons b bs =>
      cases h
      simp

/-! ## The records of a STAGE (R192) -/

theorem inRange_iff {lo hi n : Nat} : inRange lo hi n = true ↔ lo ≤ n ∧ n ≤ hi := by simp [inRange]

theorem textValid_length {lo hi : Nat} {t : List Byte} (h : textValid lo hi t = true) : t.length ≤ hi := by
  simp only [textValid, Bool.and_eq_true, inRange_iff] at h
  exact h.1.2

theorem fieldCodec : Codec parseField fieldBytes fun f => fieldValid f = true := by
  refine ⟨fun f rest h => ?_, fun bs f rest h => ?_⟩
  · simp only [fieldValid, Bool.and_eq_true, inRange_iff, Config.fieldsPerForm, Config.pages, Config.classes] at h
    obtain ⟨⟨⟨⟨⟨⟨number, page⟩, row⟩, column⟩, length⟩, cls⟩, text⟩ := h
    have flags := onlyBits_flagByte [f.kind == .fixed, f.skip, f.bright, f.hidden]
    have bit {i : Nat} (hi : i < 8) := flagByte_getLsbD [f.kind == .fixed, f.skip, f.bright, f.hidden] hi
    have kind : (if (f.kind == FieldKind.fixed) = true then FieldKind.fixed else .input) = f.kind := by
      cases f.kind <;> rfl
    have short : f.default.length ≤ 255 := (textValid_length text).trans (by decide)
    simp only [fieldBytes, List.cons_append, parseField, show onlyBits 4 _ = true from flags, if_true,
      textCodec.encode _ _ short, bit (show 0 < 8 by decide), bit (show 1 < 8 by decide), bit (show 2 < 8 by decide),
      bit (show 3 < 8 by decide), List.getD_cons_zero, List.getD_cons_succ, kind,
      toNat_byteOf (show f.number ≤ 255 by omega), toNat_byteOf (show f.page ≤ 255 by omega),
      toNat_byteOf (show f.row ≤ 255 by omega), toNat_byteOf (show f.column ≤ 255 by omega),
      toNat_byteOf (show f.length ≤ 255 by omega), toNat_byteOf (show f.cls ≤ 255 by omega)]
  · unfold parseField at h
    split at h
    · next number page row column length flags cls bs =>
      split at h
      · next only =>
        split at h
        · cases h
        · next t rest' text =>
          cases h
          have kind : ((if flags.getLsbD 0 = true then FieldKind.fixed else .input) == .fixed) = flags.getLsbD 0 := by
            cases flags.getLsbD 0 <;> rfl
          rw [textCodec.decode _ _ _ text]
          simp only [fieldBytes, byteOf_toNat, kind]
          rw [show byteOf (flagByte [flags.getLsbD 0, flags.getLsbD 1, flags.getLsbD 2, flags.getLsbD 3]) = flags from
            flagByte_bits only]
          rfl
      · cases h
    · cases h

theorem parseOp_iff {b : Byte} {o : RuleOp} : parseOp b = some o ↔ b = opCode o := by
  cases o <;> grind [parseOp, opCode]

theorem ruleEndCodec (number : Nat) (op : RuleOp) (sources : List Nat) (r : Rule) (rest : List Byte)
    (target : r.target ≤ 255) (places : r.places ≤ 255) (h : r.number = number ∧ r.op = op ∧ r.sources = sources) :
    parseRuleEnd number op sources
      ([byteOf r.target, byteOf r.places, byteOf (flagByte [r.signed, r.report])] ++ rest) = some (r, rest) := by
  obtain ⟨rfl, rfl, rfl⟩ := h
  have flags := onlyBits_flagByte [r.signed, r.report]
  have bit {i : Nat} (hi : i < 8) := flagByte_getLsbD [r.signed, r.report] hi
  simp only [List.cons_append, List.nil_append, parseRuleEnd, show onlyBits 2 _ = true from flags, if_true,
    toNat_byteOf target, toNat_byteOf places, bit (show 0 < 8 by decide), bit (show 1 < 8 by decide),
    List.getD_cons_zero, List.getD_cons_succ]

theorem parseRuleEnd_some {number : Nat} {op : RuleOp} {sources : List Nat} {bs rest : List Byte} {r : Rule}
    (h : parseRuleEnd number op sources bs = some (r, rest)) :
    (r.number = number ∧ r.op = op ∧ r.sources = sources) ∧
      bs = [byteOf r.target, byteOf r.places, byteOf (flagByte [r.signed, r.report])] ++ rest := by
  unfold parseRuleEnd at h
  split at h
  · next target places flags bs =>
    split at h
    · next only =>
      cases h
      refine ⟨⟨rfl, rfl, rfl⟩, ?_⟩
      simp only [byteOf_toNat]
      rw [show byteOf (flagByte [flags.getLsbD 0, flags.getLsbD 1]) = flags from flagByte_bits only]
      rfl
    · cases h
  · cases h

theorem sourceCountValid_le {op : RuleOp} {n : Nat} (h : sourceCountValid op n = true) : n ≤ 24 := by
  cases op <;> simp only [sourceCountValid, inRange_iff, beq_iff_eq] at h <;> omega

theorem ruleCodec : Codec parseRule ruleBytes fun r => ruleValid r = true := by
  refine ⟨fun r rest h => ?_, fun bs r rest h => ?_⟩
  · simp only [ruleValid, Bool.and_eq_true, inRange_iff, List.all_eq_true, Config.rulesPerForm,
      Config.fieldsPerForm] at h
    obtain ⟨⟨⟨⟨number, count⟩, sources⟩, target⟩, places⟩ := h
    have few := sourceCountValid_le count
    have list := numberCodec.list.encode r.sources
      ([byteOf r.target, byteOf r.places, byteOf (flagByte [r.signed, r.report])] ++ rest)
      ⟨by omega, fun n hn => by have := sources n hn; omega⟩
    simp only [List.cons_append, List.nil_append] at list
    simp only [ruleBytes, List.cons_append, List.nil_append, List.append_assoc, parseRule, parseOp_iff.mpr rfl,
      toNat_byteOf (show r.number ≤ 255 by omega)]
    rw [list]
    exact ruleEndCodec _ _ _ r rest (by omega) (by omega) ⟨rfl, rfl, rfl⟩
  · unfold parseRule at h
    split at h
    · next number op bs =>
      split at h
      · next o sources rest' code list =>
        obtain ⟨⟨hn, ho, hs⟩, tail⟩ := parseRuleEnd_some h
        rw [numberCodec.list.decode _ _ _ list, tail, parseOp_iff.mp code, ruleBytes, hn, ho, hs, byteOf_toNat]
        simp only [List.cons_append, List.append_assoc]
      · cases h
    · cases h

/-- A number of which 0 stands for none (R192). -/
theorem zeroAbsent_byteOf {o : Option Nat} (h : ∀ n, o = some n → 1 ≤ n ∧ n ≤ 255) :
    zeroAbsent (byteOf (o.getD 0)) = o := by
  cases o with
  | none => rfl
  | some n =>
    obtain ⟨lo, hi⟩ := h n rfl
    have e := toNat_byteOf hi
    have ne : byteOf n ≠ 0#8 := fun zero => by rw [zero] at e; simp at e; omega
    simp only [zeroAbsent, Option.getD_some, if_neg ne, e]

theorem byteOf_zeroAbsent (b : Byte) : byteOf ((zeroAbsent b).getD 0) = b := by
  unfold zeroAbsent
  split
  · next zero => rw [zero]; rfl
  · simp

/-- Bits above the low byte of a number of `8 + k` bits fit in `k` bits of the high byte. -/
theorem onlyBits_highByte {k : Nat} (x : BitVec (8 + k)) : onlyBits k ((x.setWidth 16).extractLsb' 8 8) = true := by
  refine onlyBits_iff.mpr fun i hi => ?_
  rw [BitVec.getLsbD_extractLsb', BitVec.getLsbD_setWidth]
  simp only [BitVec.getLsbD_of_ge x (8 + i) (by omega), Bool.and_false]

/-- A high byte that uses its low `k` bits alone is kept when the number is cut to `8 + k` bits. -/
theorem halfOf_setWidth {k : Nat} {hi lo : Byte} (h : onlyBits k hi = true) :
    ((halfOf hi lo).setWidth (8 + k)).setWidth 16 = halfOf hi lo := by
  apply BitVec.eq_of_getLsbD_eq
  intro i lt
  rw [BitVec.getLsbD_setWidth, BitVec.getLsbD_setWidth]
  by_cases low : i < 8 + k
  · simp [lt, low]
  · have zero : (halfOf hi lo).getLsbD i = false := by
      rw [halfOf, BitVec.getLsbD_append, if_neg (by omega)]
      exact onlyBits_iff.mp h (i - 8) (by omega)
    simp [zero]

theorem formCodec : Codec parseForm formBytes fun d => formValid d = true := by
  refine ⟨fun d rest h => ?_, fun bs d rest h => ?_⟩
  · simp only [formValid, Bool.and_eq_true, inRange_iff, List.all_eq_true, Option.all_eq_true, Config.rulesPerForm,
      Config.fieldsPerForm, Config.pages] at h
    obtain ⟨⟨⟨⟨⟨pages, initial⟩, fieldCount⟩, fields⟩, ruleCount⟩, rules⟩ := h
    have flags := onlyBits_flagByte [d.cycle]
    have bit := flagByte_getLsbD [d.cycle] (show 0 < 8 by decide)
    have high : onlyBits 4 ((d.shortKeys.setWidth 16).extractLsb' 8 8) = true := onlyBits_highByte (k := 4) d.shortKeys
    have keys : (d.shortKeys.setWidth 16).setWidth 12 = d.shortKeys := by simp
    have first := zeroAbsent_byteOf fun n hn => by have := initial n hn; omega
    have ruleList := ruleCodec.list.encode d.rules rest ⟨by omega, rules⟩
    have fieldList := fieldCodec.list.encode d.fields (listBytes ruleBytes d.rules ++ rest) ⟨by omega, fields⟩
    simp only [formBytes, halfBytes, List.cons_append, List.nil_append, List.append_assoc, parseForm,
      show onlyBits 1 _ = true from flags, high, Bool.and_self, if_true, fieldList, ruleList, first,
      halfOf_halfBytes, keys, bit, List.getD_cons_zero, toNat_byteOf (show d.pages ≤ 255 by omega)]
  · unfold parseForm at h
    split at h
    · next pages flags high low initial bs =>
      split at h
      · next only =>
        obtain ⟨only, short⟩ := Bool.and_eq_true_iff.mp only
        split at h
        · cases h
        · next fields bs' fieldList =>
          split at h
          · cases h
          · next rules rest' ruleList =>
            cases h
            rw [fieldCodec.list.decode _ _ _ fieldList, ruleCodec.list.decode _ _ _ ruleList]
            have keys : ((halfOf high low).setWidth 12).setWidth 16 = halfOf high low := halfOf_setWidth (k := 4) short
            simp only [formBytes, byteOf_toNat, keys, halfBytes_halfOf, byteOf_zeroAbsent]
            rw [show byteOf (flagByte [flags.getLsbD 0]) = flags from flagByte_bits only]
            simp only [List.cons_append, List.nil_append, List.append_assoc]
      · cases h
    · cases h

theorem parseClassKind_iff {b : Byte} {k : ClassKind} : parseClassKind b = some k ↔ b = classKindCode k := by
  cases k <;> grind [parseClassKind, classKindCode]

/-- A limit is read as absent from zero bytes alone (R192). -/
theorem limitIf_some {present : Bool} {v : Int} {o : Option Int} :
    limitIf present v = some o ↔ present = o.isSome ∧ v = o.getD 0 := by
  cases present <;> cases o <;> simp [limitIf]

theorem limitIf_limitBytes {o : Option Int} (h : o.all limitValid = true) :
    limitIf o.isSome (BitVec.ofInt 64 (o.getD 0)).toInt = some o := by
  refine limitIf_some.mpr ⟨rfl, ?_⟩
  cases o with
  | none => exact limit_toInt (by decide)
  | some v => exact limit_toInt h

theorem classCodec : Codec parseClass classBytes fun c => classValid c = true := by
  refine ⟨fun c rest h => ?_, fun bs c rest h => ?_⟩
  · simp only [classValid, Bool.and_eq_true, inRange_iff] at h
    obtain ⟨⟨places, low⟩, high⟩ := h
    have flags := onlyBits_flagByte [c.signed, c.mandatoryEntry, c.mandatoryFill, c.fold, c.low.isSome, c.high.isSome]
    have bit {i : Nat} (hi : i < 8) :=
      flagByte_getLsbD [c.signed, c.mandatoryEntry, c.mandatoryFill, c.fold, c.low.isSome, c.high.isSome] hi
    simp only [classBytes, limitBytes, List.cons_append, List.nil_append, parseClass, parseClassKind_iff.mpr rfl,
      show onlyBits 6 _ = true from flags, if_true, limitOf_extract, bit (show 0 < 8 by decide),
      bit (show 1 < 8 by decide), bit (show 2 < 8 by decide), bit (show 3 < 8 by decide), bit (show 4 < 8 by decide),
      bit (show 5 < 8 by decide), List.getD_cons_zero, List.getD_cons_succ, limitIf_limitBytes low,
      limitIf_limitBytes high, toNat_byteOf (show c.places ≤ 255 by omega)]
  · unfold parseClass at h
    split at h
    · next kind places flags a b c d e f g h' a' b' c' d' e' f' g' h'' bs =>
      split at h
      · next k low high code lowRead highRead =>
        split at h
        · next only =>
          cases h
          obtain ⟨lowThere, lowBytes⟩ := limitIf_some.mp lowRead
          obtain ⟨highThere, highBytes⟩ := limitIf_some.mp highRead
          simp only [classBytes, ← lowBytes, ← highBytes, ← lowThere, ← highThere, limitBytes_limitOf, byteOf_toNat,
            parseClassKind_iff.mp code]
          rw [show byteOf (flagByte [flags.getLsbD 0, flags.getLsbD 1, flags.getLsbD 2, flags.getLsbD 3,
            flags.getLsbD 4, flags.getLsbD 5]) = flags from flagByte_bits only]
          rfl
        · cases h
      · cases h
    · cases h

theorem routeCodec : Codec parseRoute routeBytes fun r => routeValid r = true := by
  refine ⟨fun r rest h => ?_, fun bs r rest h => ?_⟩
  · simp only [routeValid, Bool.and_eq_true, inRange_iff, Option.all_eq_true, Config.forms,
      Config.fieldsPerForm] at h
    obtain ⟨⟨⟨⟨⟨form, pattern⟩, -⟩, length⟩, strip⟩, target⟩ := h
    have short : r.pattern.length ≤ 255 := (textValid_length pattern).trans (by decide)
    have filter := zeroAbsent_byteOf fun n hn => by have := form n hn; omega
    have text := textCodec.encode r.pattern ([r.mask, byteOf r.length, byteOf r.strip, byteOf r.target] ++ rest) short
    simp only [List.cons_append, List.nil_append] at text
    simp only [routeBytes, List.cons_append, List.nil_append, List.append_assoc, parseRoute, text, filter,
      toNat_byteOf (show r.length ≤ 255 by omega), toNat_byteOf (show r.strip ≤ 255 by omega),
      toNat_byteOf (show r.target ≤ 255 by omega)]
  · unfold parseRoute at h
    split at h
    · next form bs =>
      split at h
      · next pattern mask length strip target rest' text =>
        cases h
        rw [textCodec.decode _ _ _ text]
        simp only [routeBytes, byteOf_zeroAbsent, byteOf_toNat, List.cons_append, List.append_assoc, List.nil_append]
      · cases h
    · cases h

/-- A staged entry: its key number, its type and its record (R192). -/
theorem Codec.staged {α : Type} {p : List Byte → Option (α × List Byte)} {enc : α → List Byte} {valid : α → Bool}
    (c : Codec p enc fun a => valid a = true) {top : Nat} (small : top ≤ 255) :
    Codec (parseStaged p) (stagedBytes enc) fun e => (1 ≤ e.1 ∧ e.1 ≤ top) ∧ e.2.all valid = true := by
  refine ⟨fun e rest h => ?_, fun bs e rest h => ?_⟩
  · obtain ⟨k, o⟩ := e
    obtain ⟨key, valid⟩ : (1 ≤ k ∧ k ≤ top) ∧ o.all _ = true := h
    have number := toNat_byteOf (key.2.trans small)
    cases o with
    | none => simp only [stagedBytes, List.cons_append, List.nil_append, parseStaged, if_true, number]
    | some a =>
      have one : ¬(1#8 = 0#8) := by decide
      simp only [stagedBytes, List.cons_append, parseStaged, if_neg one, if_true, c.encode a rest valid, number]
  · unfold parseStaged at h
    split at h
    · next key type bs =>
      split at h
      · next zero =>
        cases h
        rw [zero, stagedBytes, byteOf_toNat]
        rfl
      · split at h
        · next one =>
          split at h
          · cases h
          · next r rest' record =>
            cases h
            rw [c.decode _ _ _ record, one]
            simp only [stagedBytes, byteOf_toNat, List.cons_append]
        · cases h
    · cases h

/-- The entries of a STAGE, their count before them. -/
theorem Codec.entries {α : Type} {p : List Byte → Option (α × List Byte)} {enc : α → List Byte} {valid : α → Bool}
    (c : Codec p enc fun a => valid a = true) {top : Nat} (small : top ≤ 255) :
    Codec (parseList (parseStaged p)) (listBytes (stagedBytes enc)) fun es => entriesValid top valid es = true :=
  (c.staged small).list.mono fun _ h => ⟨(entriesValid_iff.mp h).1.2, (entriesValid_iff.mp h).2⟩

end Sys2Proof.Machine
end

section
/-! The payloads of the requests (R191 to R194): each is read back as its request, and a request is read from its own
payload alone. -/

namespace Sys2Proof.Machine

/-! ## The station orders (R193) -/

theorem parseTone_iff {b : Byte} {t : Option Tone} : parseTone b = some t ↔ b = toneCode t := by
  obtain _ | _ | _ := t <;> grind [parseTone, toneCode]

theorem parseOverride_iff {b : Byte} {o : Option Override} : parseOverride b = some o ↔ b = overrideCode o := by
  obtain _ | ⟨_ | _, _ | _⟩ := o <;> grind [parseOverride, overrideCode]

theorem parseBool_iff {b : Byte} {v : Bool} : parseBool b = some v ↔ b = boolByte v := by
  cases v <;> grind [parseBool, boolByte]

theorem parsePolicy_iff {b : Byte} {v : Policy} : parsePolicy b = some v ↔ b = policyByte v := by
  cases v <;> grind [parsePolicy, policyByte]

theorem parseFallback_iff {b : Byte} {v : Fallback} : parseFallback b = some v ↔ b = fallbackByte v := by
  cases v <;> grind [parseFallback, fallbackByte]

theorem updateCodec : Codec parseUpdate updateBytes fun u => updateValid u = true := by
  refine ⟨fun u rest h => ?_, fun bs u rest h => ?_⟩
  · simp only [updateValid, Bool.and_eq_true, inRange_iff, Config.fieldsPerForm] at h
    simp only [updateBytes, List.cons_append, parseUpdate, parseOverride_iff.mpr rfl,
      textCodec.encode _ _ (textValid_length h.2), toNat_byteOf (show u.field ≤ 255 by omega)]
  · unfold parseUpdate at h
    split at h
    · next field code bs =>
      split at h
      · next o t rest' effective text =>
        cases h
        rw [textCodec.decode _ _ _ text, parseOverride_iff.mp effective]
        simp only [updateBytes, byteOf_toNat, List.cons_append]
      · cases h
    · cases h

/-- The number of an option is there exactly when its bit is set, and 0 otherwise. -/
theorem numberIf_byteOf {o : Option Nat} (h : ∀ n, o = some n → n ≤ 255) :
    numberIf o.isSome (byteOf (o.getD 0)) = some o := by
  cases o with
  | none => rfl
  | some n => simp [numberIf, toNat_byteOf (h n rfl)]

theorem numberIf_some {present : Bool} {b : Byte} {o : Option Nat} (h : numberIf present b = some o) :
    present = o.isSome ∧ b = byteOf (o.getD 0) := by
  cases present with
  | true => cases h; simp
  | false =>
    obtain ⟨zero, e⟩ := Option.ite_none_right_eq_some.mp h
    cases e
    exact ⟨rfl, zero⟩

theorem cursorIf_byteOf {o : Option (Nat × Nat)} (h : ∀ c, o = some c → c.1 ≤ 255 ∧ c.2 ≤ 255) :
    cursorIf o.isSome (byteOf ((o.map Prod.fst).getD 0)) (byteOf ((o.map Prod.snd).getD 0)) = some o := by
  cases o with
  | none => rfl
  | some c => simp [cursorIf, toNat_byteOf (h c rfl).1, toNat_byteOf (h c rfl).2]

theorem cursorIf_some {present : Bool} {f g : Byte} {o : Option (Nat × Nat)} (h : cursorIf present f g = some o) :
    present = o.isSome ∧ f = byteOf ((o.map Prod.fst).getD 0) ∧ g = byteOf ((o.map Prod.snd).getD 0) := by
  cases present with
  | true => cases h; simp
  | false =>
    obtain ⟨⟨hf, hg⟩, e⟩ := Option.ite_none_right_eq_some.mp h
    cases e
    exact ⟨rfl, hf, hg⟩

theorem toneIf_iff {present : Bool} {b : Byte} {t : Option Tone} :
    toneIf present b = some t ↔ present = t.isSome ∧ b = toneCode t := by
  rw [← parseTone_iff, toneIf]
  cases h : parseTone b with
  | none => simp
  | some u => grind

/-- The flags of a WRITE, bit 0 first (R193). -/
def writeFlags (w : WriteOrder) : List Bool :=
  [w.eraseInput, w.clearMarks, w.resetTouched, w.page.isSome, w.cursor.isSome, w.restore, w.tone.isSome]

theorem parseWrite_writeBytes {w : WriteOrder} (h : writeValid w = true) : parseWrite (writeBytes w) = some w := by
  simp only [writeValid, Bool.and_eq_true, Option.all_eq_true, inRange_iff, List.all_eq_true, Config.fieldsPerForm] at h
  obtain ⟨⟨⟨page, cursor⟩, count⟩, updates⟩ := h
  have flags := onlyBits_flagByte (writeFlags w)
  have bit {i : Nat} (hi : i < 8) := flagByte_getLsbD (writeFlags w) hi
  have pageRead := numberIf_byteOf fun n hn => (page n hn).2
  have cursorRead := cursorIf_byteOf fun c hc => by have := cursor c hc; omega
  have toneRead := (toneIf_iff (t := w.tone)).mpr ⟨rfl, rfl⟩
  have list := updateCodec.list.whole_encode (a := w.updates) ⟨count.2, updates⟩
  simp only [writeFlags] at flags bit
  simp only [writeBytes, parseWrite, show onlyBits 7 _ = true from flags, if_true, bit (show 0 < 8 by decide),
    bit (show 1 < 8 by decide), bit (show 2 < 8 by decide), bit (show 3 < 8 by decide), bit (show 4 < 8 by decide),
    bit (show 5 < 8 by decide), bit (show 6 < 8 by decide), List.getD_cons_zero, List.getD_cons_succ, pageRead,
    cursorRead, toneRead, list]

theorem parseWrite_some {bs : List Byte} {w : WriteOrder} (h : parseWrite bs = some w) : bs = writeBytes w := by
  unfold parseWrite at h
  split at h
  · next options page field offset tone bs =>
    split at h
    · next p c t us pageRead cursorRead toneRead list =>
      split at h
      · next only =>
        cases h
        obtain ⟨pageThere, pageByte⟩ := numberIf_some pageRead
        obtain ⟨cursorThere, fieldByte, offsetByte⟩ := cursorIf_some cursorRead
        obtain ⟨toneThere, toneByte⟩ := toneIf_iff.mp toneRead
        rw [updateCodec.list.whole_decode list]
        simp only [writeBytes, ← pageByte, ← fieldByte, ← offsetByte, ← toneByte, ← pageThere, ← cursorThere,
          ← toneThere]
        rw [show byteOf (flagByte [options.getLsbD 0, options.getLsbD 1, options.getLsbD 2, options.getLsbD 3,
          options.getLsbD 4, options.getLsbD 5, options.getLsbD 6]) = options from flagByte_bits only]
      · cases h
    · cases h
  · cases h

/-! ### The settings of a STATION SET, whose bytes are examined only when carried -/

/-- A value byte as it is examined: 0 when its setting is not carried. -/
def examinedByte (carried : Bool) (b : Byte) : Byte := if carried = false then 0#8 else b

section Carried

variable {α : Type} {parse : Byte → Option α} {enc : α → Byte}

theorem carriedIf_encode (codes : ∀ b v, parse b = some v ↔ b = enc v) (o : Option α) :
    carriedIf o.isSome (parse ((o.map enc).getD 0#8)) = some o := by
  cases o with
  | none => rfl
  | some v => simp [carriedIf, (codes _ v).mpr rfl]

theorem carriedIf_decode (codes : ∀ b v, parse b = some v ↔ b = enc v) {carried : Bool} {b : Byte} {o : Option α}
    (h : carriedIf carried (parse b) = some o) :
    carried = o.isSome ∧ examinedByte carried b = (o.map enc).getD 0#8 := by
  cases carried with
  | false => cases h; exact ⟨rfl, rfl⟩
  | true =>
    obtain ⟨v, read, rfl⟩ := Option.map_eq_some_iff.mp h
    exact ⟨rfl, (codes b v).mp read⟩

/-- The byte of a setting that is not carried makes no difference. -/
theorem carriedIf_examinedByte (parse : Byte → Option α) (carried : Bool) (b : Byte) :
    carriedIf carried (parse (examinedByte carried b)) = carriedIf carried (parse b) := by
  cases carried <;> rfl

end Carried

/-- The flags of a STATION SET, bit 0 first (R193). -/
def settingsFlags (c : SettingsChange) : List Bool :=
  [c.typeahead.isSome, c.timeout.isSome, c.policy.isSome, c.fallback.isSome, c.scanner.isSome, c.tone.isSome]

theorem timeout_byteOf {o : Option Nat} (h : ∀ n, o = some n → n ≤ 255) :
    (if o.isSome = true then some ((o.map byteOf).getD 0#8).toNat else none) = o := by
  cases o with
  | none => rfl
  | some n => simp [toNat_byteOf (h n rfl)]

theorem parseSettings_bytes {c : SettingsChange} (h : ∀ n, c.timeout = some n → n ≤ 255) :
    parseSettings (settingsChangeBytes c) = some c := by
  have flags := onlyBits_flagByte (settingsFlags c)
  have bit {i : Nat} (hi : i < 8) := flagByte_getLsbD (settingsFlags c) hi
  simp only [settingsFlags] at flags bit
  simp only [settingsChangeBytes, parseSettings, show onlyBits 6 _ = true from flags, if_true,
    bit (show 0 < 8 by decide), bit (show 1 < 8 by decide), bit (show 2 < 8 by decide), bit (show 3 < 8 by decide),
    bit (show 4 < 8 by decide), bit (show 5 < 8 by decide), List.getD_cons_zero, List.getD_cons_succ,
    carriedIf_encode fun _ _ => parseBool_iff, carriedIf_encode fun _ _ => parsePolicy_iff,
    carriedIf_encode fun _ _ => parseFallback_iff, timeout_byteOf h]

/-- The bytes of a STATION SET after its station set as they are examined. -/
def examinedSettings (carried a b c d e f : Byte) : List Byte :=
  [carried, examinedByte (carried.getLsbD 0) a, examinedByte (carried.getLsbD 1) b,
    examinedByte (carried.getLsbD 2) c, examinedByte (carried.getLsbD 3) d, examinedByte (carried.getLsbD 4) e,
    examinedByte (carried.getLsbD 5) f]

/-- The bytes that are not examined make no difference. -/
theorem parseSettings_examined (carried a b c d e f : Byte) :
    parseSettings (examinedSettings carried a b c d e f) = parseSettings [carried, a, b, c, d, e, f] := by
  have timeout : (if carried.getLsbD 1 = true then some (examinedByte (carried.getLsbD 1) b).toNat else none) =
      if carried.getLsbD 1 = true then some b.toNat else none := by
    cases carried.getLsbD 1 <;> rfl
  simp only [examinedSettings, parseSettings, carriedIf_examinedByte, timeout]

theorem parseSettings_some {bs : List Byte} {change : SettingsChange} (h : parseSettings bs = some change) :
    ∃ carried a b c d e f, bs = [carried, a, b, c, d, e, f] ∧
      examinedSettings carried a b c d e f = settingsChangeBytes change := by
  unfold parseSettings at h
  split at h
  · next carried a b c d e f =>
    split at h
    · next typeahead policy fallback scanner tone hta hpo hfb hsc hto =>
      split at h
      · next only =>
        cases h
        obtain ⟨carried0, byte0⟩ := carriedIf_decode (fun _ _ => parseBool_iff) hta
        obtain ⟨carried2, byte2⟩ := carriedIf_decode (fun _ _ => parsePolicy_iff) hpo
        obtain ⟨carried3, byte3⟩ := carriedIf_decode (fun _ _ => parseFallback_iff) hfb
        obtain ⟨carried4, byte4⟩ := carriedIf_decode (fun _ _ => parseBool_iff) hsc
        obtain ⟨carried5, byte5⟩ := carriedIf_decode (fun _ _ => parseBool_iff) hto
        have carried1 : (if carried.getLsbD 1 = true then some b.toNat else none).isSome = carried.getLsbD 1 := by
          cases carried.getLsbD 1 <;> rfl
        have byte1 : examinedByte (carried.getLsbD 1) b =
            ((if carried.getLsbD 1 = true then some b.toNat else none).map byteOf).getD 0#8 := by
          cases carried.getLsbD 1 <;> simp [examinedByte]
        refine ⟨carried, a, b, c, d, e, f, rfl, ?_⟩
        simp only [examinedSettings, settingsChangeBytes, byte0, byte1, byte2, byte3, byte4, byte5, carried1,
          ← carried0, ← carried2, ← carried3, ← carried4, ← carried5]
        rw [show byteOf (flagByte [carried.getLsbD 0, carried.getLsbD 1, carried.getLsbD 2, carried.getLsbD 3,
          carried.getLsbD 4, carried.getLsbD 5]) = carried from flagByte_bits only]
      · cases h
    · cases h
  · cases h

/-! ## A STAGE (R192) -/

theorem formEntries : Codec (parseList (parseStaged parseForm)) (listBytes (stagedBytes formBytes))
    fun es => entriesValid Config.forms formValid es = true := formCodec.entries (by decide)

theorem classEntries : Codec (parseList (parseStaged parseClass)) (listBytes (stagedBytes classBytes))
    fun es => entriesValid Config.classes classValid es = true := classCodec.entries (by decide)

theorem routeEntries : Codec (parseList (parseStaged parseRoute)) (listBytes (stagedBytes routeBytes))
    fun es => entriesValid Config.routes routeValid es = true := routeCodec.entries (by decide)

theorem parseLoad_loadBytes {load : StageLoad} (h : loadValid load = true) : parseLoad (loadBytes load) = some load := by
  have two : ¬(2#8 = 1#8) := by decide
  have three : ¬(3#8 = 1#8) ∧ ¬(3#8 = 2#8) := by decide
  cases load with
  | forms es =>
    simp only [loadBytes, parseLoad, if_true, formEntries.whole_encode h, Option.map_some]
  | classes es =>
    simp only [loadBytes, parseLoad, if_neg two, if_true, classEntries.whole_encode h, Option.map_some]
  | routes es =>
    simp only [loadBytes, parseLoad, if_neg three.1, if_neg three.2, if_true, routeEntries.whole_encode h,
      Option.map_some]

theorem parseLoad_some {bs : List Byte} {load : StageLoad} (h : parseLoad bs = some load) : bs = loadBytes load := by
  unfold parseLoad at h
  split at h
  · next kind bs =>
    split at h
    · next one =>
      obtain ⟨es, read, rfl⟩ := Option.map_eq_some_iff.mp h
      rw [one, formEntries.whole_decode read]
      rfl
    · split at h
      · next two =>
        obtain ⟨es, read, rfl⟩ := Option.map_eq_some_iff.mp h
        rw [two, classEntries.whole_decode read]
        rfl
      · split at h
        · next three =>
          obtain ⟨es, read, rfl⟩ := Option.map_eq_some_iff.mp h
          rw [three, routeEntries.whole_decode read]
          rfl
        · cases h
  · cases h

/-! ## The other payloads (R193, R194) -/

theorem parseSet_some {f : StationSet → Request} {code : Byte} {bs : List Byte} {r : Request}
    (row : ∀ set, kindCode (f set) = code ∧ [set] = requestBytes (f set)) (h : parseSet f bs = some r) :
    kindCode r = code ∧ bs = requestBytes r := by
  unfold parseSet at h
  split at h
  · cases h; exact row _
  · cases h

theorem parseNothing_some {q r : Request} {bs : List Byte} (row : [] = requestBytes q)
    (h : parseNothing q bs = some r) : kindCode r = kindCode q ∧ bs = requestBytes r := by
  cases bs with
  | nil => cases h; exact ⟨rfl, row⟩
  | cons b bs => cases h

theorem parseShow_some {bs : List Byte} {r : Request} (h : parseShow bs = some r) :
    kindCode r = 0x10#8 ∧ bs = requestBytes r := by
  unfold parseShow at h
  split at h
  · obtain ⟨v, hold, rfl⟩ := Option.map_eq_some_iff.mp h
    refine ⟨rfl, ?_⟩
    simp only [requestBytes, byteOf_toNat, parseBool_iff.mp hold]
  · cases h

theorem parseNotice_some {bs : List Byte} {r : Request} (h : parseNotice bs = some r) :
    kindCode r = 0x12#8 ∧ bs = requestBytes r := by
  unfold parseNotice at h
  split at h
  · split at h
    · next t text toneRead textRead =>
      cases h
      refine ⟨rfl, ?_⟩
      rw [textCodec.whole_decode textRead, parseTone_iff.mp toneRead]
      rfl
    · cases h
  · cases h

theorem parsePoll_some {bs : List Byte} {r : Request} (h : parsePoll bs = some r) :
    kindCode r = 0x20#8 ∧ bs = requestBytes r := by
  unfold parsePoll at h
  split at h
  · split at h
    · next one => cases h; rw [one]; exact ⟨rfl, rfl⟩
    · split at h
      · next two => cases h; rw [two]; exact ⟨rfl, rfl⟩
      · cases h
  · cases h

theorem parseStatus_some {bs : List Byte} {r : Request} (h : parseStatus bs = some r) :
    kindCode r = 0x21#8 ∧ bs = requestBytes r := by
  unfold parseStatus at h
  split at h
  · split at h
    · cases h
      exact ⟨rfl, by simp [requestBytes]⟩
    · split at h
      · next all => cases h; rw [all]; exact ⟨rfl, rfl⟩
      · cases h
  · cases h

/-- A byte that uses its low `k` bits alone is kept when it is cut to them. -/
theorem setWidth_onlyBits {k : Nat} {b : Byte} (h : onlyBits k b = true) : (b.setWidth k).setWidth 8 = b := by
  apply BitVec.eq_of_getLsbD_eq
  intro i lt
  rw [BitVec.getLsbD_setWidth, BitVec.getLsbD_setWidth]
  by_cases low : i < k
  · simp [lt, low]
  · simp [onlyBits_iff.mp h i (Nat.le_of_not_lt low)]

theorem onlyBits_setWidth {k : Nat} (x : BitVec k) : onlyBits k (x.setWidth 8) = true := by
  refine onlyBits_iff.mpr fun i hi => ?_
  rw [BitVec.getLsbD_setWidth, BitVec.getLsbD_of_ge x i hi, Bool.and_false]

theorem parseEnables_some {bs : List Byte} {r : Request} (h : parseEnables bs = some r) :
    kindCode r = 0x22#8 ∧ bs = requestBytes r := by
  unfold parseEnables at h
  split at h
  · next hi lo =>
    split at h
    · next only =>
      cases h
      have enables : ((halfOf hi lo).setWidth 11).setWidth 16 = halfOf hi lo := halfOf_setWidth (k := 3) only
      exact ⟨rfl, by simp only [requestBytes, enables, halfBytes_halfOf]⟩
    · cases h
  · cases h

theorem parseClear_some {bs : List Byte} {r : Request} (h : parseClear bs = some r) :
    kindCode r = 0x23#8 ∧ bs = requestBytes r := by
  unfold parseClear at h
  split at h
  · split at h
    · next only =>
      cases h
      refine ⟨rfl, ?_⟩
      simp only [requestBytes, flagLayout, setWidth_onlyBits only]
      rfl
    · cases h
  · cases h

/-- The eight flag bytes of a CLEAR EVENTS. -/
theorem vector_eight (v : Vector Byte 8) : v = #v[v[0], v[1], v[2], v[3], v[4], v[5], v[6], v[7]] := by
  apply Vector.ext
  intro i hi
  match i, hi with
  | 0, _ | 1, _ | 2, _ | 3, _ | 4, _ | 5, _ | 6, _ | 7, _ => rfl

/-! ## Every request -/

/-- The bytes of a payload that are examined: the value bytes of the settings that a STATION SET does not carry count
as 0 (R193). -/
def examinedBytes (kind : Byte) (payload : List Byte) : List Byte :=
  if kind = 0x17#8 then
    payload.mapIdx fun n b => if 2 ≤ n ∧ (payload.getD 1 0#8).getLsbD (n - 2) = false then 0#8 else b
  else payload

theorem examinedBytes_of_ne {kind : Byte} (h : kind ≠ 0x17#8) (payload : List Byte) :
    examinedBytes kind payload = payload := if_neg h

theorem examinedBytes_settings (set carried a b c d e f : Byte) :
    examinedBytes 0x17#8 [set, carried, a, b, c, d, e, f] = set :: examinedSettings carried a b c d e f := by
  simp [examinedBytes, examinedSettings, examinedByte]

/-- A request in its ranges is read back from its payload. -/
theorem parsePayload_requestBytes {r : Request} (h : requestValid r = true) :
    parsePayload (kindCode r) (requestBytes r) = some r := by
  cases r with
  | stage load => exact congrArg (Option.map Request.stage) (parseLoad_loadBytes h)
  | discard => rfl
  | commit check => exact congrArg (fun x => some (Request.commit x)) (halfOf_halfBytes check)
  | lock kinds =>
    show (if onlyBits 3 (kinds.setWidth 8) = true then some (Request.lock ((kinds.setWidth 8).setWidth 3)) else none) = _
    rw [if_pos (onlyBits_setWidth kinds)]
    simp
  | showForm set form hold =>
    have small : form ≤ 255 := (inRange_iff.mp h).2.trans (by decide)
    show (parseBool (boolByte hold)).map (fun h => Request.showForm set (byteOf form).toNat h) = _
    rw [parseBool_iff.mpr rfl, toNat_byteOf small]
    rfl
  | write set order => exact congrArg (Option.map (Request.write set)) (parseWrite_writeBytes h)
  | notice set tone text =>
    have read := textCodec.whole_encode (textValid_length h)
    show parseNotice (set :: toneCode tone :: textBytes text) = _
    simp only [parseNotice, parseTone_iff.mpr rfl, read]
  | hold set => rfl
  | release set => rfl
  | page set page => exact congrArg (fun n => some (Request.page set n)) (toNat_byteOf (inRange_iff.mp h).2)
  | reread set => rfl
  | stationSet set change =>
    have timeout : ∀ n, change.timeout = some n → n ≤ 255 := fun n hn => by
      have valid : change.timeout.all (inRange 0 255) = true := h
      rw [hn] at valid
      exact (inRange_iff.mp valid).2
    exact congrArg (Option.map (Request.stationSet set)) (parseSettings_bytes timeout)
  | stationReset set => rfl
  | suspend set => rfl
  | resume set => rfl
  | pollScan set => rfl
  | pollNext set => rfl
  | status => rfl
  | stationStatus i =>
    have number : (byteOf i.val).toNat = i.val := toNat_byteOf (i.isLt.le.trans (by decide))
    show parseStatus [byteOf i.val] = _
    simp only [parseStatus, number, i.isLt, dite_true]
  | identify => rfl
  | enableEvents enables =>
    show parseEnables (halfBytes (enables.setWidth 16)) = _
    have high : onlyBits 3 ((enables.setWidth 16).extractLsb' 8 8) = true := onlyBits_highByte (k := 3) enables
    simp only [halfBytes, parseEnables, if_pos high, halfOf_halfBytes]
    simp
  | clearEvents part flags =>
    rw [vector_eight flags]
    show parseClear [part.setWidth 8, flags[0], flags[1], flags[2], flags[3], flags[4], flags[5], flags[6],
      flags[7]] = _
    simp only [parseClear, if_pos (onlyBits_setWidth part)]
    simp
  | partReset => rfl

/-- A request is read from no payload but its own, the bytes that are not examined aside. -/
theorem parsePayload_some {kind : Byte} {payload : List Byte} {r : Request} (h : parsePayload kind payload = some r) :
    kindCode r = kind ∧ examinedBytes kind payload = requestBytes r := by
  have plain (code : Byte) (ne : code ≠ 0x17#8) (hk : kind.toNat = code.toNat)
      (read : kindCode r = code ∧ payload = requestBytes r) :
      kindCode r = kind ∧ examinedBytes kind payload = requestBytes r := by
    obtain rfl := BitVec.eq_of_toNat_eq hk
    exact ⟨read.1, (examinedBytes_of_ne ne payload).trans read.2⟩
  unfold parsePayload at h
  split at h
  case h_1 hk =>
    obtain ⟨load, read, rfl⟩ := Option.map_eq_some_iff.mp h
    exact plain 0x01#8 (by decide) hk ⟨rfl, parseLoad_some read⟩
  case h_2 hk => exact plain 0x02#8 (by decide) hk (parseNothing_some rfl h)
  case h_3 hk =>
    split at h
    · next hi lo =>
      cases h
      exact plain 0x03#8 (by decide) hk ⟨rfl, (halfBytes_halfOf hi lo).symm⟩
    · cases h
  case h_4 hk =>
    split at h
    · next kinds =>
      obtain ⟨only, e⟩ := Option.ite_none_right_eq_some.mp h
      cases e
      exact plain 0x04#8 (by decide) hk ⟨rfl, congrArg (fun b => [b]) (setWidth_onlyBits only).symm⟩
    · cases h
  case h_5 hk => exact plain 0x10#8 (by decide) hk (parseShow_some h)
  case h_6 hk =>
    split at h
    · next set bs =>
      obtain ⟨order, read, rfl⟩ := Option.map_eq_some_iff.mp h
      exact plain 0x11#8 (by decide) hk ⟨rfl, congrArg (set :: ·) (parseWrite_some read)⟩
    · cases h
  case h_7 hk => exact plain 0x12#8 (by decide) hk (parseNotice_some h)
  case h_8 hk => exact plain 0x13#8 (by decide) hk (parseSet_some (fun _ => ⟨rfl, rfl⟩) h)
  case h_9 hk => exact plain 0x14#8 (by decide) hk (parseSet_some (fun _ => ⟨rfl, rfl⟩) h)
  case h_10 hk =>
    split at h
    · next set page =>
      cases h
      exact plain 0x15#8 (by decide) hk ⟨rfl, congrArg (fun b => [set, b]) (byteOf_toNat page).symm⟩
    · cases h
  case h_11 hk => exact plain 0x16#8 (by decide) hk (parseSet_some (fun _ => ⟨rfl, rfl⟩) h)
  case h_12 hk =>
    split at h
    · next set bs =>
      obtain ⟨change, read, rfl⟩ := Option.map_eq_some_iff.mp h
      obtain ⟨carried, a, b, c, d, e, f, rfl, bytes⟩ := parseSettings_some read
      obtain rfl : kind = 0x17#8 := BitVec.eq_of_toNat_eq hk
      exact ⟨rfl, (examinedBytes_settings set carried a b c d e f).trans (congrArg (set :: ·) bytes)⟩
    · cases h
  case h_13 hk => exact plain 0x18#8 (by decide) hk (parseSet_some (fun _ => ⟨rfl, rfl⟩) h)
  case h_14 hk => exact plain 0x19#8 (by decide) hk (parseSet_some (fun _ => ⟨rfl, rfl⟩) h)
  case h_15 hk => exact plain 0x1A#8 (by decide) hk (parseSet_some (fun _ => ⟨rfl, rfl⟩) h)
  case h_16 hk => exact plain 0x20#8 (by decide) hk (parsePoll_some h)
  case h_17 hk => exact plain 0x21#8 (by decide) hk (parseStatus_some h)
  case h_18 hk => exact plain 0x22#8 (by decide) hk (parseEnables_some h)
  case h_19 hk => exact plain 0x23#8 (by decide) hk (parseClear_some h)
  case h_20 hk => exact plain 0x24#8 (by decide) hk (parseNothing_some rfl h)
  case h_21 hk => exact plain 0x25#8 (by decide) hk (parseNothing_some rfl h)
  case h_22 => cases h

end Sys2Proof.Machine
end

section
/-! Decoding a request (R173), and the ranges in which its numbers, counts and texts lie (R2 to R10, R193). -/

namespace Sys2Proof.Machine

/-! ## Decoding -/

/-- A request in its ranges decodes from its kind and payload. -/
theorem decodeRequest_requestBytes {r : Request} (h : requestValid r = true) :
    decodeRequest (kindCode r) (requestBytes r) = some r :=
  Option.filter_eq_some_iff.mpr ⟨parsePayload_requestBytes h, h⟩

theorem kindCode_stationSet {r : Request} (h : kindCode r = 0x17#8) : ∃ set change, r = .stationSet set change := by
  cases r with
  | stationSet set change => exact ⟨set, change, rfl⟩
  | stage | discard | commit | lock | showForm | write | notice | hold | release | page | reread | stationReset
  | suspend | resume | pollScan | pollNext | status | stationStatus | identify | enableEvents | clearEvents
  | partReset => simp [kindCode] at h

/-- The examined bytes decide what a STATION SET of eight bytes is read as. -/
theorem parsePayload_examinedBytes {payload : List Byte} (h : payload.length = 8) :
    parsePayload 0x17#8 (examinedBytes 0x17#8 payload) = parsePayload 0x17#8 payload := by
  match payload, h with
  | [set, carried, a, b, c, d, e, f], _ =>
    rw [examinedBytes_settings]
    exact congrArg (Option.map (Request.stationSet set)) (parseSettings_examined carried a b c d e f)

theorem length_examinedBytes (kind : Byte) (payload : List Byte) :
    (examinedBytes kind payload).length = payload.length := by
  unfold examinedBytes
  split <;> simp

/-- A kind and a payload decode to a request exactly when it lies in its ranges and they are its own, the bytes that
are not examined aside. -/
theorem decodeRequest_iff {kind : Byte} {payload : List Byte} {r : Request} :
    decodeRequest kind payload = some r ↔
      requestValid r = true ∧ kindCode r = kind ∧ examinedBytes kind payload = requestBytes r := by
  constructor
  · intro h
    obtain ⟨read, valid⟩ := Option.filter_eq_some_iff.mp h
    exact ⟨valid, parsePayload_some read⟩
  · rintro ⟨valid, rfl, bytes⟩
    refine Option.filter_eq_some_iff.mpr ⟨?_, valid⟩
    have read := parsePayload_requestBytes valid
    by_cases settings : kindCode r = 0x17#8
    · obtain ⟨set, change, rfl⟩ := kindCode_stationSet settings
      have length : payload.length = 8 := by
        rw [← length_examinedBytes (kindCode (.stationSet set change)), bytes]
        rfl
      exact (parsePayload_examinedBytes length).symm.trans ((congrArg (parsePayload 0x17#8) bytes).trans read)
    · rw [examinedBytes_of_ne settings] at bytes
      rw [bytes, read]

/-! ## Ranges -/

/-- A text of `lo` to `hi` printable characters. -/
def Printed (lo hi : Nat) (t : List Byte) : Prop :=
  lo ≤ t.length ∧ t.length ≤ hi ∧ ∀ c ∈ t, 0x20 ≤ c.toNat ∧ c.toNat ≤ 0x7E

theorem textValid_iff {lo hi : Nat} {t : List Byte} : textValid lo hi t = true ↔ Printed lo hi t := by
  simp only [textValid, Printed, Bool.and_eq_true, inRange_iff, List.all_eq_true, printable, and_assoc]

/-- The ranges of R3. -/
def FieldRanges (f : FieldDef) : Prop :=
  (1 ≤ f.number ∧ f.number ≤ 96) ∧ (1 ≤ f.page ∧ f.page ≤ 4) ∧ (1 ≤ f.row ∧ f.row ≤ 23) ∧
    (1 ≤ f.column ∧ f.column ≤ 80) ∧ (1 ≤ f.length ∧ f.length ≤ 79) ∧ f.cls ≤ 31 ∧ Printed 0 79 f.default

theorem fieldValid_iff {f : FieldDef} : fieldValid f = true ↔ FieldRanges f := by
  simp only [fieldValid, FieldRanges, Bool.and_eq_true, inRange_iff, textValid_iff, Config.fieldsPerForm, Config.pages,
    Config.classes, Nat.zero_le, true_and, and_assoc]

/-- The ranges of R4. -/
def RuleRanges (r : Rule) : Prop :=
  (1 ≤ r.number ∧ r.number ≤ 16) ∧ (r.op = .sum → 1 ≤ r.sources.length ∧ r.sources.length ≤ 24) ∧
    (r.op ≠ .sum → r.sources.length = 2) ∧ (∀ n ∈ r.sources, 1 ≤ n ∧ n ≤ 96) ∧ (1 ≤ r.target ∧ r.target ≤ 96) ∧
    r.places ≤ 4

theorem sourceCountValid_iff {op : RuleOp} {n : Nat} :
    sourceCountValid op n = true ↔ (op = .sum → 1 ≤ n ∧ n ≤ 24) ∧ (op ≠ .sum → n = 2) := by
  cases op <;> simp [sourceCountValid, inRange_iff]

theorem ruleValid_iff {r : Rule} : ruleValid r = true ↔ RuleRanges r := by
  simp only [ruleValid, RuleRanges, Bool.and_eq_true, inRange_iff, sourceCountValid_iff, List.all_eq_true,
    Config.rulesPerForm, Config.fieldsPerForm, Nat.zero_le, true_and, and_assoc]

/-- The ranges of R2. -/
def FormRanges (d : FormDef) : Prop :=
  (1 ≤ d.pages ∧ d.pages ≤ 4) ∧ (∀ n, d.initial = some n → 1 ≤ n ∧ n ≤ 96) ∧
    (1 ≤ d.fields.length ∧ d.fields.length ≤ 96) ∧ (∀ f ∈ d.fields, FieldRanges f) ∧ d.rules.length ≤ 16 ∧
    ∀ r ∈ d.rules, RuleRanges r

theorem formValid_iff {d : FormDef} : formValid d = true ↔ FormRanges d := by
  simp only [formValid, FormRanges, Bool.and_eq_true, inRange_iff, Option.all_eq_true, List.all_eq_true, fieldValid_iff,
    ruleValid_iff, Config.pages, Config.fieldsPerForm, Config.rulesPerForm, Nat.zero_le, true_and, and_assoc]

/-- The ranges of R6. -/
def ClassRanges (c : ClassDef) : Prop :=
  c.places ≤ 4 ∧ ∀ v, (c.low = some v ∨ c.high = some v) → -999999999999999 ≤ v ∧ v ≤ 999999999999999

theorem classValid_iff {c : ClassDef} : classValid c = true ↔ ClassRanges c := by
  simp only [classValid, ClassRanges, Bool.and_eq_true, inRange_iff, Option.all_eq_true, limitValid_iff, Nat.zero_le,
    true_and, and_assoc, or_imp]
  exact and_congr_right' forall_and.symm

/-- The bits of a mask beyond its pattern are 0 exactly when it is below the power of 2 of the pattern's length. -/
theorem mask_lt_iff {mask : Byte} {n : Nat} : mask.toNat < 2 ^ n ↔ ∀ i, n ≤ i → mask.getLsbD i = false := by
  rw [← onlyBits_iff, onlyBits, decide_eq_true_eq]

/-- The ranges of R7. -/
def RouteRanges (r : RouteDef) : Prop :=
  (∀ n, r.form = some n → 1 ≤ n ∧ n ≤ 32) ∧ Printed 1 8 r.pattern ∧
    (∀ n, r.pattern.length ≤ n → r.mask.getLsbD n = false) ∧ r.length ≤ 48 ∧ r.strip ≤ 8 ∧ r.target ≤ 96

theorem routeValid_iff {r : RouteDef} : routeValid r = true ↔ RouteRanges r := by
  simp only [routeValid, RouteRanges, Bool.and_eq_true, inRange_iff, Option.all_eq_true, textValid_iff,
    decide_eq_true_eq, mask_lt_iff, Config.forms, Config.fieldsPerForm, Nat.zero_le, true_and, and_assoc]

/-- The ranges of the entries of a STAGE (R10). -/
def EntryRanges {α : Type} (top : Nat) (ok : α → Prop) (es : List (Nat × Option α)) : Prop :=
  (1 ≤ es.length ∧ es.length ≤ 255) ∧ ∀ e ∈ es, (1 ≤ e.1 ∧ e.1 ≤ top) ∧ ∀ d, e.2 = some d → ok d

theorem entriesValid_ranges {α : Type} {valid : α → Bool} {ok : α → Prop} (h : ∀ {a}, valid a = true ↔ ok a)
    {top : Nat} {es : List (Nat × Option α)} : entriesValid top valid es = true ↔ EntryRanges top ok es := by
  simp only [entriesValid_iff, EntryRanges, Option.all_eq_true, h]

/-- The ranges of a WRITE (R193). -/
def WriteRanges (w : WriteOrder) : Prop :=
  (∀ p, w.page = some p → 1 ≤ p ∧ p ≤ 255) ∧
    (∀ n off, w.cursor = some (n, off) → (1 ≤ n ∧ n ≤ 96) ∧ off ≤ 255) ∧ w.updates.length ≤ 255 ∧
    ∀ u ∈ w.updates, (1 ≤ u.field ∧ u.field ≤ 96) ∧ Printed 0 255 u.text

theorem writeValid_iff {w : WriteOrder} : writeValid w = true ↔ WriteRanges w := by
  simp only [writeValid, updateValid, WriteRanges, Bool.and_eq_true, inRange_iff, Option.all_eq_true, List.all_eq_true,
    textValid_iff, Config.fieldsPerForm, Nat.zero_le, true_and, and_assoc, Prod.forall]

theorem timeoutValid_iff {o : Option Nat} : o.all (inRange 0 255) = true ↔ ∀ n, o = some n → n ≤ 255 := by
  simp only [Option.all_eq_true, inRange_iff, Nat.zero_le, true_and]

/-- The ranges of a request (R10, R193); a request without numbers or texts has none. -/
def RequestRanges : Request → Prop
  | .stage (.forms es) => EntryRanges 32 FormRanges es
  | .stage (.classes es) => EntryRanges 31 ClassRanges es
  | .stage (.routes es) => EntryRanges 16 RouteRanges es
  | .showForm _ n _ => 1 ≤ n ∧ n ≤ 32
  | .write _ w => WriteRanges w
  | .notice _ _ t => Printed 0 255 t
  | .page _ p => 1 ≤ p ∧ p ≤ 255
  | .stationSet _ c => ∀ n, c.timeout = some n → n ≤ 255
  | .discard | .commit _ | .lock _ | .hold _ | .release _ | .reread _ | .stationReset _ | .suspend _ | .resume _
  | .pollScan _ | .pollNext _ | .status | .stationStatus _ | .identify | .enableEvents _ | .clearEvents _ _
  | .partReset => True

theorem requestValid_iff (r : Request) : requestValid r = true ↔ RequestRanges r := by
  cases r with
  | stage load =>
    cases load with
    | forms es => exact entriesValid_ranges formValid_iff
    | classes es => exact entriesValid_ranges classValid_iff
    | routes es => exact entriesValid_ranges routeValid_iff
  | showForm set n hold => exact inRange_iff
  | write set w => exact writeValid_iff
  | notice set t text => exact textValid_iff
  | page set p => exact inRange_iff
  | stationSet set c => exact timeoutValid_iff
  | discard | commit | lock | hold | release | reread | stationReset | suspend | resume | pollScan | pollNext | status
  | stationStatus | identify | enableEvents | clearEvents | partReset => exact iff_of_true rfl trivial

end Sys2Proof.Machine
end

section
/-! The payloads written out byte by byte, with the flags as sums of their weights (R190, R192 to R194), and that the
model's writers give them. -/

namespace Sys2Proof.Machine

/-! ## Flags, 16-bit numbers and limits -/

/-- What a flag of weight `n` adds to its byte. -/
def flagWeight (b : Bool) (n : Nat) : Nat := if b = true then n else 0

theorem two_mul_flagWeight (b : Bool) (n : Nat) : 2 * flagWeight b n = flagWeight b (2 * n) := by
  cases b <;> simp [flagWeight]

theorem flagByte_nil : flagByte [] = 0 := rfl

theorem flagByte_cons (b : Bool) (bs : List Bool) : flagByte (b :: bs) = flagWeight b 1 + 2 * flagByte bs := rfl

theorem halfBytes_eq (x : Half) : halfBytes x = [BitVec.ofNat 8 (x.toNat / 256), BitVec.ofNat 8 x.toNat] := by
  have high : x.extractLsb' 8 8 = BitVec.ofNat 8 (x.toNat / 256) := by
    apply BitVec.eq_of_toNat_eq
    simp [Nat.shiftRight_eq_div_pow]
  have low : x.extractLsb' 0 8 = BitVec.ofNat 8 x.toNat := by
    apply BitVec.eq_of_toNat_eq
    simp
  rw [halfBytes, high, low]

/-- A byte of a limit is that of its quotient, rounded down, by the power of 256. -/
theorem extract_ofInt (v : Int) (k : Nat) (h : k < 8) :
    (BitVec.ofInt 64 v).extractLsb' (8 * k) 8 = BitVec.ofInt 8 (v / 256 ^ k) := by
  apply BitVec.eq_of_toNat_eq
  interval_cases k <;> simp [BitVec.toNat_ofInt, Nat.shiftRight_eq_div_pow] <;> omega

theorem limitBytes_eq (v : Int) :
    limitBytes v = [7, 6, 5, 4, 3, 2, 1, 0].map fun k => BitVec.ofInt 8 (v / 256 ^ k) := by
  have byte := extract_ofInt v
  simp only [List.map_cons, List.map_nil, ← byte 7 (by decide), ← byte 6 (by decide), ← byte 5 (by decide),
    ← byte 4 (by decide), ← byte 3 (by decide), ← byte 2 (by decide), ← byte 1 (by decide), ← byte 0 (by decide)]
  rfl

/-! ## The records of a STAGE (R192) -/

/-- The bytes of a field definition. -/
def fieldLayout (f : FieldDef) : List Byte :=
  [byteOf f.number, byteOf f.page, byteOf f.row, byteOf f.column, byteOf f.length,
    byteOf (flagWeight (f.kind == .fixed) 1 + flagWeight f.skip 2 + flagWeight f.bright 4 + flagWeight f.hidden 8),
    byteOf f.cls] ++ textBytes f.default

theorem fieldBytes_eq : fieldBytes = fieldLayout := by
  funext f
  simp only [fieldBytes, fieldLayout, flagByte_cons, flagByte_nil, Nat.mul_add, two_mul_flagWeight, Nat.reduceMul,
    Nat.add_zero, Nat.add_assoc, List.cons_append, List.nil_append]

/-- The bytes of a computation rule. -/
def ruleLayout (r : Rule) : List Byte :=
  [byteOf r.number, opCode r.op, byteOf r.sources.length] ++ r.sources.map byteOf ++
    [byteOf r.target, byteOf r.places, byteOf (flagWeight r.signed 1 + flagWeight r.report 2)]

theorem ruleBytes_eq : ruleBytes = ruleLayout := by
  funext r
  have sources : r.sources.flatMap (fun n => [byteOf n]) = r.sources.map byteOf := List.map_eq_flatMap.symm
  simp only [ruleBytes, ruleLayout, listBytes, sources, flagByte_cons, flagByte_nil, two_mul_flagWeight,
    Nat.reduceMul, Nat.add_zero, List.cons_append, List.nil_append]

/-- The bytes of a form record. -/
def formLayout (d : FormDef) : List Byte :=
  [byteOf d.pages, byteOf (flagWeight d.cycle 1)] ++
    [BitVec.ofNat 8 (d.shortKeys.toNat / 256), BitVec.ofNat 8 d.shortKeys.toNat] ++
    [byteOf (d.initial.getD 0), byteOf d.fields.length] ++ d.fields.flatMap fieldLayout ++
    byteOf d.rules.length :: d.rules.flatMap ruleLayout

theorem formBytes_eq : formBytes = formLayout := by
  funext d
  have keys : (d.shortKeys.setWidth 16).toNat = d.shortKeys.toNat :=
    BitVec.toNat_setWidth_of_le (by decide)
  simp only [formBytes, formLayout, listBytes, halfBytes_eq, keys, fieldBytes_eq, ruleBytes_eq, flagByte_cons,
    flagByte_nil, Nat.mul_zero, Nat.add_zero, List.cons_append, List.nil_append]

/-- The bytes of a class record. -/
def classLayout (c : ClassDef) : List Byte :=
  [classKindCode c.kind, byteOf c.places,
    byteOf (flagWeight c.signed 1 + flagWeight c.mandatoryEntry 2 + flagWeight c.mandatoryFill 4 + flagWeight c.fold 8 +
      flagWeight c.low.isSome 16 + flagWeight c.high.isSome 32)] ++
    [7, 6, 5, 4, 3, 2, 1, 0].map (fun k => BitVec.ofInt 8 (c.low.getD 0 / 256 ^ k)) ++
    [7, 6, 5, 4, 3, 2, 1, 0].map (fun k => BitVec.ofInt 8 (c.high.getD 0 / 256 ^ k))

theorem classBytes_eq : classBytes = classLayout := by
  funext c
  simp only [classBytes, classLayout, limitBytes_eq, flagByte_cons, flagByte_nil, Nat.mul_add, two_mul_flagWeight,
    Nat.reduceMul, Nat.add_zero, Nat.add_assoc, List.cons_append, List.nil_append]

/-- The bytes of a route record. -/
def routeLayout (r : RouteDef) : List Byte :=
  byteOf (r.form.getD 0) :: textBytes r.pattern ++ [r.mask, byteOf r.length, byteOf r.strip, byteOf r.target]

theorem routeBytes_eq : routeBytes = routeLayout := rfl

/-- The bytes of the entries of a STAGE. -/
def stagedLayout {α : Type} (record : α → List Byte) (es : List (Nat × Option α)) : List Byte :=
  byteOf es.length :: es.flatMap fun e => byteOf e.1 ::
    match e.2 with
    | none => [0#8]
    | some d => 1#8 :: record d

theorem listBytes_stagedBytes {α : Type} {record layout : α → List Byte} (h : record = layout)
    (es : List (Nat × Option α)) : listBytes (stagedBytes record) es = stagedLayout layout es := by
  have entry : stagedBytes record = fun e => byteOf e.1 ::
      match e.2 with
      | none => [0#8]
      | some d => 1#8 :: layout d := by
    rw [h]
    funext ⟨k, o⟩
    cases o <;> rfl
  rw [listBytes, entry, stagedLayout]

/-! ## The other requests (R193, R194) -/

theorem writeFlags_eq (w : WriteOrder) :
    flagByte [w.eraseInput, w.clearMarks, w.resetTouched, w.page.isSome, w.cursor.isSome, w.restore, w.tone.isSome] =
      flagWeight w.eraseInput 1 + flagWeight w.clearMarks 2 + flagWeight w.resetTouched 4 +
        flagWeight w.page.isSome 8 + flagWeight w.cursor.isSome 16 + flagWeight w.restore 32 +
        flagWeight w.tone.isSome 64 := by
  simp only [flagByte_cons, flagByte_nil, Nat.mul_add, two_mul_flagWeight, Nat.reduceMul, Nat.add_zero, Nat.add_assoc]

theorem settingsFlags_eq (c : SettingsChange) :
    flagByte [c.typeahead.isSome, c.timeout.isSome, c.policy.isSome, c.fallback.isSome, c.scanner.isSome,
        c.tone.isSome] =
      flagWeight c.typeahead.isSome 1 + flagWeight c.timeout.isSome 2 + flagWeight c.policy.isSome 4 +
        flagWeight c.fallback.isSome 8 + flagWeight c.scanner.isSome 16 + flagWeight c.tone.isSome 32 := by
  simp only [flagByte_cons, flagByte_nil, Nat.mul_add, two_mul_flagWeight, Nat.reduceMul, Nat.add_zero, Nat.add_assoc]

/-- The value byte of a setting that is carried or 0. -/
theorem boolByte_carried (o : Option Bool) : (o.map boolByte).getD 0#8 = boolByte (o.getD false) := by
  cases o <;> rfl

theorem policyByte_carried (o : Option Policy) : (o.map policyByte).getD 0#8 = boolByte (o == some .override) := by
  obtain _ | _ | _ := o <;> rfl

theorem fallbackByte_carried (o : Option Fallback) : (o.map fallbackByte).getD 0#8 = boolByte (o == some .wedge) := by
  obtain _ | _ | _ := o <;> rfl

theorem byteOf_carried (o : Option Nat) : (o.map byteOf).getD 0#8 = byteOf (o.getD 0) := by
  cases o <;> rfl

/-- The bytes of a STATION SET after its station set. -/
def settingsLayout (c : SettingsChange) : List Byte :=
  [byteOf (flagWeight c.typeahead.isSome 1 + flagWeight c.timeout.isSome 2 + flagWeight c.policy.isSome 4 +
      flagWeight c.fallback.isSome 8 + flagWeight c.scanner.isSome 16 + flagWeight c.tone.isSome 32),
    boolByte (c.typeahead.getD false), byteOf (c.timeout.getD 0), boolByte (c.policy == some .override),
    boolByte (c.fallback == some .wedge), boolByte (c.scanner.getD false), boolByte (c.tone.getD false)]

theorem settingsChangeBytes_eq (c : SettingsChange) : settingsChangeBytes c = settingsLayout c := by
  simp only [settingsChangeBytes, settingsLayout, settingsFlags_eq, boolByte_carried, policyByte_carried,
    fallbackByte_carried, byteOf_carried]

theorem enablesBytes_eq (enables : BitVec 11) :
    halfBytes (enables.setWidth 16) = [BitVec.ofNat 8 (enables.toNat / 256), BitVec.ofNat 8 enables.toNat] := by
  rw [halfBytes_eq, BitVec.toNat_setWidth_of_le (by decide)]

/-- Settles O16: decoding is parsing followed by the ranges, so the two halves of each codec give what decodes; the
ranges and the layouts are those of each record in turn. -/
theorem requestsDecodeFromTheirBytes : Obligations.RequestsDecodeFromTheirBytes := by
  unfold Obligations.RequestsDecodeFromTheirBytes
  refine ⟨fun r => decodeRequest_requestBytes, fun kind payload r => decodeRequest_iff, ?_, ?_⟩
  · intro printed within entries field rule form cls route r
    refine (requestValid_iff r).trans ?_
    cases r with
    | stage load => cases load <;> rfl
    | _ => rfl
  · intro one two bit flag text tone limit staged field rule form cls route r
    cases r with
    | stage load =>
      cases load with
      | forms es => exact congrArg (fun bs => (0x01#8, 1#8 :: bs)) (listBytes_stagedBytes formBytes_eq es)
      | classes es => exact congrArg (fun bs => (0x01#8, 2#8 :: bs)) (listBytes_stagedBytes classBytes_eq es)
      | routes es => exact congrArg (fun bs => (0x01#8, 3#8 :: bs)) (listBytes_stagedBytes routeBytes_eq es)
    | commit check => exact congrArg (Prod.mk 0x03#8) (halfBytes_eq check)
    | write set w =>
      exact congrArg (fun flags => (0x11#8, set :: byteOf flags :: (writeBytes w).tail)) (writeFlags_eq w)
    | stationSet set c => exact congrArg (fun bs => (0x17#8, set :: bs)) (settingsChangeBytes_eq c)
    | enableEvents enables => exact congrArg (Prod.mk 0x22#8) (enablesBytes_eq enables)
    | discard | lock | showForm | notice | hold | release | page | reread | stationReset | suspend | resume | pollScan
    | pollNext | status | stationStatus | identify | clearEvents | partReset => rfl

end Sys2Proof.Machine
end

section
/-! What the remaining events make of their station, each written out once: the end of a transmission, RESUME, and the
steps of a WRITE after its fields. -/

namespace Sys2Proof.Machine

/-! ## Events written out -/

/-- The end of a transmission: the message leaves flight, and the repaint that has sent row 24 ends with its report,
which clears settling (R154, R166). -/
theorem Act.transmitted_eq (st : Station) :
    (Act.start st).transmitted =
      ⟨{ st with
          line := { st.line with
            inFlight := none, repaint := if st.line.repaintDone = true then none else st.line.repaint }
          form := if st.line.repaintDone = true then st.form.map fun x => x.settle false else st.form },
        [], false, []⟩ := by
  unfold Act.transmitted Act.start
  dsimp only
  split <;> rfl

/-- RESUME of a station that holds an instance: ACTIVE again, settling while the line is UP, the timer of a WAITING
keyboard started afresh (R30, R44, R153). -/
theorem Act.resume_some {st : Station} {x : FormInstance} (form : st.form = some x) :
    (Act.start st).resume =
      ⟨{ st with
          state := .active
          form := some { x with settling := st.line.up }
          timer := if st.keyboard = .waiting ∧ st.settings.timeout ≠ 0 then some st.settings.timeout else st.timer },
        [], true, []⟩ := by
  unfold Act.resume
  simp only [Act.start_station, form]
  by_cases waiting : st.keyboard = .waiting <;> by_cases off : st.settings.timeout = 0 <;>
    simp [waiting, off, Act.startTimer, Act.askRepaint, Act.start, FormInstance.settle]

/-- RESUME of a station without an instance (R30). -/
theorem Act.resume_none {st : Station} (form : st.form = none) :
    (Act.start st).resume = ⟨{ st with state := .noForm }, [], true, []⟩ := by
  unfold Act.resume
  simp only [Act.start_station, form]
  rfl

/-! ## The steps of a WRITE after its fields (R139, R146) -/

/-- The instance after the page option of a WRITE: turned, and settling while the line is UP when the station is
ACTIVE (R43, R44, R146). -/
def Station.turned (st : Station) (page : Option Nat) (x : FormInstance) : FormInstance :=
  match page with
  | none => x
  | some p => if st.state = .active then (x.turnTo p).settle st.line.up else x.turnTo p

@[simp] theorem Station.turned_insert (st : Station) (page : Option Nat) (x : FormInstance) :
    (st.turned page x).insert = x.insert := by
  unfold Station.turned
  repeat' split
  all_goals rfl

/-- Without a page, or outside ACTIVE, the page option leaves settling (R146). -/
theorem Station.turned_settling {st : Station} {page : Option Nat} (x : FormInstance)
    (h : page = none ∨ st.state ≠ .active) : (st.turned page x).settling = x.settling := by
  unfold Station.turned
  split
  · rfl
  · obtain h | h := h
    · cases h
    · rw [if_neg h]
      rfl

/-- The instance after steps 5 to 7 of a WRITE: the page turned, the cursor placed, insert mode off by RESTORE. -/
def Station.written (st : Station) (w : WriteOrder) (x : FormInstance) : FormInstance :=
  { (st.turned w.page x).writeCursor w.cursor with insert := x.insert && !w.restore }

/-- Without RESTORE insert mode is left as it was. -/
theorem Station.written_eq (st : Station) (w : WriteOrder) (x : FormInstance) :
    st.written w x =
      if w.restore = true then { (st.turned w.page x).writeCursor w.cursor with insert := false }
      else (st.turned w.page x).writeCursor w.cursor := by
  have insert : ((st.turned w.page x).writeCursor w.cursor).insert = x.insert := by simp
  unfold Station.written
  generalize (st.turned w.page x).writeCursor w.cursor = y at insert ⊢
  rw [← insert]
  cases w.restore <;> simp

@[simp] theorem Station.written_settling (st : Station) (w : WriteOrder) (x : FormInstance) :
    (st.written w x).settling = (st.turned w.page x).settling :=
  FormInstance.writeCursor_settling _ _

/-- Steps 5 to 8 of a WRITE: the page turned and its repaint asked in ACTIVE, the cursor placed, the keyboard freed
and the timer stopped by RESTORE, the tone asked in ACTIVE (R128, R139, R146). -/
theorem Act.writeRest_eq (st : Station) (w : WriteOrder) (x : FormInstance) :
    (Act.start st).writeRest w x =
      ⟨{ st with
          form := some (st.written w x)
          keyboard := if w.restore = true then .free else st.keyboard
          timer := if w.restore = true then none else st.timer },
        if st.state = .active then w.tone.toList else [], w.page.isSome && decide (st.state = .active), []⟩ := by
  rw [Station.written_eq]
  unfold Act.writeRest Station.turned Act.hostTurn
  by_cases active : st.state = .active <;> cases w.page <;> cases w.restore <;> cases w.tone <;>
    simp [active, Act.restore, Act.putForm, Act.setKeyboard, Act.stopTimer, Act.askRepaintIfActive, Act.askRepaint,
      Act.ask, Act.start]

end Sys2Proof.Machine
end

section
/-! What goes with each station state stays with it (R26 to R29, R46, R129, R152). -/

namespace Sys2Proof.Machine

/-! ## The three states -/

theorem Station.consistent_noForm {st : Station} (h : st.state = .noForm) :
    st.Consistent ↔ st.form = none ∧ st.keyboard = .free ∧ st.queue = [] ∧ st.slot = none ∧ st.attention = false ∧
      st.notice = List.replicate 40 blank := by
  simp only [Station.Consistent, h]

theorem Station.consistent_active {st : Station} (h : st.state = .active) :
    st.Consistent ↔ st.form.isSome = true := by
  simp only [Station.Consistent, h]

theorem Station.consistent_suspended {st : Station} (h : st.state = .suspended) :
    st.Consistent ↔ st.queue = [] ∧ st.slot = none ∧ st.attention = false ∧
      (∀ x, st.form = some x → x.settling = false) ∧
      (st.form = none → st.keyboard = .free ∧ st.notice = List.replicate 40 blank) := by
  simp only [Station.Consistent, h]

/-! ## Events that leave the station state -/

/-- `u` is `st` in the same station state, with nothing new where that state holds nothing: outside ACTIVE no item, no
entry and no attention, in SUSPENDED no settling, and without an instance the keyboard FREE and the notice kept. -/
structure Station.Stays (st u : Station) : Prop where
  state : u.state = st.state
  holds : st.form.isSome = true → u.form.isSome = true
  form : ∀ y, u.form = some y →
    ∃ x, st.form = some x ∧ (st.state = .suspended → x.settling = false → y.settling = false)
  keyboard : st.form = none → st.keyboard = .free → u.keyboard = .free
  notice : st.form = none → u.notice = st.notice
  queue : st.state ≠ .active → st.queue = [] → u.queue = []
  slot : st.state ≠ .active → st.slot = none → u.slot = none
  attention : st.state ≠ .active → st.attention = false → u.attention = false

theorem Station.Stays.formless {st u : Station} (h : st.Stays u) (empty : st.form = none) : u.form = none := by
  refine Option.eq_none_iff_forall_ne_some.mpr fun y hy => ?_
  obtain ⟨x, hx, -⟩ := h.form y hy
  rw [empty] at hx
  cases hx

theorem Station.Consistent.stays {st u : Station} (h : st.Consistent) (stays : st.Stays u) : u.Consistent := by
  have same := stays.state
  cases state : st.state with
  | noForm =>
    obtain ⟨form, keyboard, queue, slot, attention, notice⟩ := (Station.consistent_noForm state).mp h
    have inactive : st.state ≠ .active := by rw [state]; decide
    exact (Station.consistent_noForm (same.trans state)).mpr ⟨stays.formless form, stays.keyboard form keyboard,
      stays.queue inactive queue, stays.slot inactive slot, stays.attention inactive attention,
      (stays.notice form).trans notice⟩
  | active =>
    exact (Station.consistent_active (same.trans state)).mpr (stays.holds ((Station.consistent_active state).mp h))
  | suspended =>
    obtain ⟨queue, slot, attention, settled, empty⟩ := (Station.consistent_suspended state).mp h
    have inactive : st.state ≠ .active := by rw [state]; decide
    refine (Station.consistent_suspended (same.trans state)).mpr ⟨stays.queue inactive queue,
      stays.slot inactive slot, stays.attention inactive attention, fun y hy => ?_, fun formless => ?_⟩
    · obtain ⟨x, hx, calm⟩ := stays.form y hy
      exact calm state (settled x hx)
    · have form : st.form = none := by
        cases form : st.form with
        | none => rfl
        | some x =>
          have held := stays.holds (by rw [form]; rfl)
          rw [formless] at held
          cases held
      obtain ⟨keyboard, notice⟩ := empty form
      exact ⟨stays.keyboard form keyboard, (stays.notice form).trans notice⟩

theorem Station.Stays.refl (st : Station) : st.Stays st :=
  ⟨rfl, id, fun y hy => ⟨y, hy, fun _ => id⟩, fun _ => id, fun _ => rfl, fun _ => id, fun _ => id, fun _ => id⟩

/-- Settling cleared besides (R158, R166). -/
theorem Station.Stays.calmed {st u : Station} (h : st.Stays u) :
    st.Stays { u with form := u.form.map fun x => x.settle false } := by
  refine ⟨h.state, fun holds => (Option.isSome_map ..).trans (h.holds holds), fun y hy => ?_, h.keyboard, h.notice,
    h.queue, h.slot, h.attention⟩
  obtain ⟨z, hz, rfl⟩ := Option.map_eq_some_iff.mp hy
  obtain ⟨x, hx, -⟩ := h.form z hz
  exact ⟨x, hx, fun _ _ => rfl⟩

/-- An event at a station that holds an instance and keeps one, with the queue, the entry and attention as they
were. -/
theorem Station.Stays.holding {st u : Station} {x y : FormInstance} (form : st.form = some x) (now : u.form = some y)
    (calm : st.state = .suspended → x.settling = false → y.settling = false) (state : u.state = st.state)
    (queue : u.queue = st.queue) (slot : st.state ≠ .active → u.slot = st.slot)
    (attention : u.attention = st.attention) : st.Stays u := by
  refine ⟨state, fun _ => by rw [now]; rfl, fun z hz => ⟨x, form, ?_⟩, fun empty => ?_, fun empty => ?_,
    fun _ h => queue.trans h, fun inactive h => (slot inactive).trans h, fun _ h => attention.trans h⟩
  · rw [now] at hz
    cases hz
    exact calm
  · rw [form] at empty
    cases empty
  · rw [form] at empty
    cases empty

/-! ## Every event -/

/-- An item is taken in ACTIVE, and leaves an instance there (R49). -/
theorem Station.consistent_taken {l : Library} {i : StationId} {st : Station} {it : Item} {x : FormInstance}
    (head : st.head? = some (it, x)) : ((Act.start st).takeItem it x (itemAct l i it)).station.Consistent := by
  obtain ⟨active, form, -⟩ := Station.head?_some head
  have holds : (Act.start st).dropHead.station.form.isSome = true := by
    rw [Act.dropHead_station, Act.start_station, form]
    rfl
  obtain keyed | ⟨-, -, refused⟩ | ⟨-, -, composed⟩ := Act.takeItem_cases l i it (Act.start st) x
  · exact (Station.consistent_active (keyed.state.trans active)).mpr (keyed.form holds)
  · rw [Act.Refused] at refused
    exact (Station.consistent_active (by rw [refused]; exact active)).mpr (by rw [refused]; rfl)
  · exact (Station.consistent_active (composed.state.trans active)).mpr composed.form

theorem OrderMove.consistent {l : Library} {i : StationId} {flags : BitVec 8} {st : Station} {a : Act}
    (move : OrderMove l i flags st a) (h : st.Consistent) : a.station.Consistent := by
  cases move with
  | shown hold _ _ => exact (Station.consistent_active rfl).mpr rfl
  | wrote _ _ form _ _ =>
    rw [Act.writeRest_eq]
    refine h.stays (.holding form rfl (fun suspended calm => ?_) rfl rfl (fun _ => rfl) rfl)
    rw [Station.written_settling, Station.turned_settling _ (.inr (by rw [suspended]; decide)),
      writeFields_settling]
    exact calm
  | noticed _ _ _ form => exact h.stays (.holding form form (fun _ => id) rfl rfl (fun _ => rfl) rfl)
  | held _ form => exact h.stays (.holding form form (fun _ => id) rfl rfl (fun _ => rfl) rfl)
  | released _ form => exact h.stays (.holding form form (fun _ => id) rfl rfl (fun _ => rfl) rfl)
  | turned _ form _ _ =>
    refine h.stays (.holding form rfl (fun suspended calm => ?_) rfl rfl (fun _ => rfl) rfl)
    have inactive : st.state ≠ .active := by rw [suspended]; decide
    rw [show (Act.start st).hostTurn _ _ = _ from if_neg inactive]
    exact calm
  | reread active form _ =>
    exact h.stays (.holding form form (fun _ => id) rfl rfl (fun inactive => absurd active inactive) rfl)
  | set c _ =>
    exact h.stays ⟨rfl, id, fun y hy => ⟨y, hy, fun _ => id⟩, fun _ => id, fun _ => rfl, fun _ => id, fun _ => id,
      fun _ => id⟩
  | reset => exact (Station.consistent_noForm rfl).mpr ⟨rfl, rfl, rfl, rfl, rfl, rfl⟩
  | suspended state slot attention _ =>
    refine (Station.consistent_suspended rfl).mpr ⟨rfl, slot, attention, fun y hy => ?_, fun empty => ?_⟩
    · obtain ⟨x, -, rfl⟩ := Option.map_eq_some_iff.mp hy
      rfl
    · have form : st.form = none := Option.map_eq_none_iff.mp empty
      cases was : st.state with
      | noForm =>
        obtain ⟨-, keyboard, -, -, -, notice⟩ := (Station.consistent_noForm was).mp h
        exact ⟨keyboard, notice⟩
      | active =>
        have holds := (Station.consistent_active was).mp h
        rw [form] at holds
        cases holds
      | suspended => exact absurd was state
  | resumed state =>
    obtain ⟨queue, slot, attention, -, empty⟩ := (Station.consistent_suspended state).mp h
    cases form : st.form with
    | some x =>
      rw [Act.resume_some form]
      exact (Station.consistent_active rfl).mpr rfl
    | none =>
      obtain ⟨keyboard, notice⟩ := empty form
      rw [Act.resume_none form]
      exact (Station.consistent_noForm rfl).mpr ⟨form, keyboard, queue, slot, attention, notice⟩
  | unchanged => exact h

theorem ActMove.consistent {l : Library} {i : StationId} {flags : BitVec 8} {st : Station} {a : Act}
    (move : ActMove l i flags st a) (h : st.Consistent) : a.station.Consistent := by
  cases move with
  | taken head => exact Station.consistent_taken head
  | silent _ =>
    have emptied : st.Stays { st with queue := [], line := st.line.goDown } :=
      ⟨rfl, id, fun y hy => ⟨y, hy, fun _ => id⟩, fun _ => id, fun _ => rfl, fun _ _ => rfl, fun _ => id, fun _ => id⟩
    exact h.stays emptied.calmed
  | sent _ =>
    rw [Act.transmitted_eq]
    have reported (l : LineUnit) : st.Stays { st with line := l } := ⟨rfl, id, fun y hy => ⟨y, hy, fun _ => id⟩,
      fun _ => id, fun _ => rfl, fun _ => id, fun _ => id, fun _ => id⟩
    cases st.line.repaintDone with
    | true => exact h.stays (reported { st.line with inFlight := none, repaint := none }).calmed
    | false => exact h.stays (reported { st.line with inFlight := none })
  | expires _ =>
    refine h.stays ⟨rfl, id, fun y hy => ⟨y, hy, fun _ => id⟩, fun _ free => ?_, fun _ => rfl, fun _ => id,
      fun _ => id, fun _ => id⟩
    show (if st.keyboard = .waiting then Keyboard.timedOut else st.keyboard) = .free
    rw [free]
    rfl
  | collected _ =>
    exact h.stays ⟨rfl, id, fun y hy => ⟨y, hy, fun _ => id⟩, fun _ => id, fun _ => rfl, fun _ => id,
      fun _ _ => rfl, fun _ _ => rfl⟩
  | ordered valid order applied => exact (order_cases valid order applied).consistent h
  | partReset => exact (Station.consistent_noForm rfl).mpr ⟨rfl, rfl, rfl, rfl, rfl, rfl⟩

/-- An accepted message adds items and attention in ACTIVE alone (R48, R129). -/
theorem LineMove.consistent {st u : Station} (move : LineMove st u) (h : st.Consistent) : u.Consistent := by
  cases move with
  | read r => exact h
  | parity => exact h
  | framing => exact h
  | @accepted message _ =>
    have a := Act.arrived st message
    refine h.stays ⟨a.state, fun holds => by rw [Act.finish_form, a.form]; exact holds,
      fun y hy => ⟨y, a.form ▸ hy, fun _ => id⟩, fun _ free => a.keyboard.trans free, fun _ => a.notice,
      fun inactive empty => ?_, fun _ empty => a.slot.trans empty, fun inactive clear => ?_⟩
    · obtain same | ⟨active, -⟩ := a.queue
      · exact same.trans empty
      · exact absurd active inactive
    · obtain same | ⟨active, -⟩ := a.attention
      · exact same.trans clear
      · exact absurd active inactive

theorem StationMove.consistent {l : Library} {i : StationId} {flags : BitVec 8} {st u : Station}
    (move : StationMove l i flags st u) (h : st.Consistent) : u.Consistent := by
  cases move with
  | stays => exact h
  | power => exact Station.reset_composer_sound.2.1
  | event move => exact move.consistent h
  | heard moves =>
    induction moves with
    | refl => exact h
    | tail _ move ih => exact move.consistent ih

/-- Settles O6: whatever a step makes of a station (`step_station`), it holds what its state lets it hold. -/
theorem stepKeepsStationStates : Obligations.StepKeepsStationStates :=
  fun _ _ h stepped i => (step_station stepped i).consistent (h i)

end Sys2Proof.Machine
end

section
/-! Settling never lasts without a repaint of the whole screen that will report it painted (R44, R158, R166). -/

namespace Sys2Proof.Machine

/-! ## A repaint of the whole screen, asked for or in progress -/

/-- A repaint of the whole screen is asked for or in progress (R162). -/
def LineUnit.Repaints (l : LineUnit) : Prop := l.repaintAll = true ∨ l.repaint.isSome = true

theorem LineUnit.repaints_requestRepaint (l : LineUnit) : l.requestRepaint.Repaints := .inl rfl

section Painting

variable {l : LineUnit} (h : l.Repaints)
include h

theorem LineUnit.Repaints.enqueue (s : Span) : (l.enqueue s).Repaints := by
  unfold LineUnit.enqueue
  split
  · exact h
  · split
    · exact h
    · exact l.repaints_requestRepaint

theorem LineUnit.Repaints.handSpan (s : Span) : (l.handSpan s).Repaints := by
  unfold LineUnit.handSpan
  split
  · exact h
  · split
    · split
      · exact h
      · exact h.enqueue s
    · exact h.enqueue s

theorem LineUnit.Repaints.handSpans (ss : List Span) : (ss.foldl LineUnit.handSpan l).Repaints := by
  induction ss generalizing l with
  | nil => exact h
  | cons s ss ih => exact ih (h.handSpan s)

theorem LineUnit.Repaints.askTone (t : Tone) : (l.askTone t).Repaints := by
  unfold LineUnit.askTone
  split <;> exact h

theorem LineUnit.Repaints.askTones (ts : List Tone) : (ts.foldl LineUnit.askTone l).Repaints := by
  induction ts generalizing l with
  | nil => exact h
  | cons t ts ih => exact ih (h.askTone t)

theorem LineUnit.Repaints.startOther (img : Image) (p : Nat) : (l.startOther img p).Repaints := by
  unfold LineUnit.startOther
  split
  · exact .inr rfl
  · split
    · exact h
    · split <;> exact h

/-- The engine ends a repaint never, and starts one that is asked for (R164, R166). -/
theorem LineUnit.Repaints.engine (img : Image) (p : Nat) : (l.engine img p).Repaints := by
  unfold LineUnit.engine LineUnit.startNext
  split
  · split
    · exact h
    · split
      · split
        · exact .inr rfl
        · exact h.startOther img p
      · exact h.startOther img p
  · exact h

end Painting

/-- At the end of an event a repaint is coming when the event asked for one or one was coming (R42, R162). -/
theorem Act.finish_repaints {a : Act} (h : a.repaint = true ∨ a.station.line.Repaints) (before : Image) :
    (a.finish before).line.Repaints := by
  have painted : (if a.repaint then a.station.line.requestRepaint
      else (imageSpans 1 before (composeImage a.station)).foldl LineUnit.handSpan a.station.line).Repaints := by
    split
    · exact a.station.line.repaints_requestRepaint
    · next quiet => exact (h.resolve_left quiet).handSpans _
  have handed : (a.handed before (composeImage a.station)).Repaints := by
    unfold Act.handed
    dsimp only
    split
    · exact painted.askTones _
    · exact painted
  exact handed.engine _ _

/-! ## Settling in an event in progress -/

/-- The event may leave the instance `x`: if it is settling, the station is ACTIVE, the line is UP, and a repaint is
asked for or in progress. -/
def Act.Admits (a : Act) (x : FormInstance) : Prop :=
  x.settling = true →
    a.station.state = .active ∧ a.station.line.up = true ∧ (a.repaint = true ∨ a.station.line.Repaints)

/-- The instance of the event's station, if it holds one, is one that it may leave. -/
def Act.SettlingSound (a : Act) : Prop := ∀ x, a.station.form = some x → a.Admits x

theorem Act.settlingSound_start {st : Station} (h : st.SettlingSound) : (Act.start st).SettlingSound := by
  intro x form settling
  obtain ⟨active, up, coming⟩ := h x form settling
  exact ⟨active, up, .inr coming⟩

theorem Act.SettlingSound.finish {a : Act} (h : a.SettlingSound) (before : Image) :
    (a.finish before).SettlingSound := by
  intro x form settling
  obtain ⟨active, up, coming⟩ := h x form settling
  exact ⟨active, (a.finish_line_up before).trans up, Act.finish_repaints coming before⟩

theorem Act.admits_of_calm (a : Act) {x : FormInstance} (calm : x.settling = false) : a.Admits x := by
  intro settling
  rw [calm] at settling
  cases settling

/-- A page switch in ACTIVE sets settling while the line is UP, and asks the repaint that will clear it (R42 to
R44). -/
theorem Act.admits_settle {a : Act} (active : a.station.state = .active) (asked : a.repaint = true)
    (x : FormInstance) : a.Admits (x.settle a.station.line.up) :=
  fun up => ⟨active, up, .inl asked⟩

theorem Act.Admits.of_settling {a : Act} {x y : FormInstance} (h : a.Admits x) (same : y.settling = x.settling) :
    a.Admits y := fun settling => h (same ▸ settling)

/-- The event goes on to `b`, which leaves an instance that `a` may leave. -/
theorem Act.Admits.leaves {a b : Act} {x : FormInstance} (h : a.Admits x) (form : b.station.form = some x)
    (state : b.station.state = a.station.state) (line : b.station.line = a.station.line)
    (repaint : a.repaint = true → b.repaint = true) : b.SettlingSound := by
  intro y hy settling
  rw [form] at hy
  cases hy
  obtain ⟨active, up, coming⟩ := h settling
  exact ⟨state.trans active, line ▸ up, coming.imp repaint fun r => line ▸ r⟩

theorem Act.Admits.putForm {a : Act} {x : FormInstance} (h : a.Admits x) : (a.putForm x).SettlingSound :=
  h.leaves rfl rfl rfl id

theorem Act.Admits.failCheck {a : Act} {x : FormInstance} (h : a.Admits x) (n : Nat) (m : Mark) :
    (a.failCheck x n m).SettlingSound :=
  Act.Admits.leaves (h.of_settling (y := x.mark n m) rfl) rfl rfl rfl id

/-! ## Keying -/

theorem FormInstance.restore_settling (x : FormInstance) : x.restore.settling = x.settling :=
  FormInstance.recomputeAll_settling _

section Keying

variable {a : Act} {x : FormInstance} (h : a.Admits x)
include h

theorem Act.Admits.move (dest : Nat) : (a.move x dest).SettlingSound := by
  unfold Act.move
  split
  · exact h.failCheck _ _
  · exact Act.Admits.putForm (h.of_settling rfl)

theorem Act.Admits.advance (f : FieldRec) (off : Nat) : (a.advance x f off).SettlingSound := by
  unfold Act.advance
  split
  · exact Act.Admits.move (a := a.putForm x) h _
  · exact Act.Admits.putForm (h.of_settling rfl)

theorem Act.Admits.enterChar (sound : a.SettlingSound) (key : Byte) : (a.enterChar x key).SettlingSound := by
  unfold Act.enterChar
  split
  · exact sound
  · dsimp only
    split
    · exact h.failCheck _ _
    · split
      · exact sound
      · refine Act.Admits.advance ?_ _ _
        exact h.of_settling (FormInstance.edit_settling ..)

theorem Act.Admits.editField (sound : a.SettlingSound) (change : List Byte → Nat → List Byte) :
    (a.editField x change).SettlingSound := by
  unfold Act.editField
  split
  · exact sound
  · exact Act.Admits.putForm (h.of_settling (FormInstance.edit_settling ..))

theorem Act.Admits.backspace (sound : a.SettlingSound) : (a.backspace x).SettlingSound := by
  unfold Act.backspace
  split
  · split
    · exact Act.Admits.editField (h.of_settling (y := { x with cursor := leftOf x.cursor }) rfl) sound _
    · exact h.move _
  · exact h.move _

theorem Act.Admits.pageKey (sound : a.SettlingSound) (active : a.station.state = .active) (target : Option Nat) :
    (a.pageKey x target).SettlingSound := by
  unfold Act.pageKey
  split
  · exact sound
  · next p =>
    split
    · exact h.failCheck _ _
    · have settled := Act.admits_settle (a := a.askRepaint) active rfl (x.turnTo p)
      exact settled.leaves rfl rfl rfl id

/-! ## Sends -/

theorem Act.Admits.compose (i : StationId) (k : SendKey) (full : Bool) : (a.compose i k full x).SettlingSound := by
  obtain ⟨station, repaint, -⟩ := a.compose_station i k full x
  exact h.leaves (by rw [station]) (by rw [station]) (by rw [station]) fun asked => repaint.trans asked

theorem Act.Admits.fullSend (active : a.station.state = .active) (i : StationId) (k : SendKey) :
    (a.fullSend i k x).SettlingSound := by
  unfold Act.fullSend
  split
  · exact h.compose i k true
  · next f m _ _ =>
    unfold Act.failSend
    dsimp only
    split
    · exact Act.Admits.leaves (h.of_settling (y := { x.markFailing with cursor := f.start }) rfl) rfl rfl rfl id
    · have settled := Act.admits_settle (a := a.askRepaint) active rfl (x.markFailing.turnTo f.defn.page)
      let y := (x.markFailing.turnTo f.defn.page).settle a.station.line.up
      exact Act.Admits.leaves (settled.of_settling (y := { y with cursor := f.start }) rfl) rfl rfl rfl id

theorem Act.Admits.functionSend (active : a.station.state = .active) (i : StationId) (n : Fin 12) :
    (a.functionSend i n x).SettlingSound := by
  unfold Act.functionSend
  split
  · exact h.compose i _ false
  · exact h.fullSend active i _

theorem Act.Admits.send {go : Act → FormInstance → Act}
    (goes : ∀ y : FormInstance, a.Admits y → (go a y).SettlingSound) : (a.send x go).SettlingSound := by
  have calm : a.Admits { x with insert := false } := h.of_settling rfl
  obtain ⟨-, refused⟩ | ⟨-, sent⟩ := a.send_cases x go
  · rw [Act.Refused] at refused
    rw [refused]
    exact calm.leaves rfl rfl rfl id
  · rw [sent]
    exact goes _ calm

/-! ## Scans -/

theorem Act.Admits.placeScan (f : FieldRec) (text : List Byte) : (a.placeScan x f text).SettlingSound := by
  refine Act.Admits.move (a := a.putForm _) ?_ _
  exact h.of_settling (FormInstance.edit_settling ..)

theorem Act.Admits.route (active : a.station.state = .active) (f : FieldRec) (text : List Byte) :
    (a.route x f text).SettlingSound := by
  unfold Act.route Act.toPage
  split
  · exact h.failCheck _ _
  · split
    · exact h.placeScan f text
    · have settled := Act.admits_settle (a := a.askRepaint) active rfl (x.turnTo f.defn.page)
      exact Act.Admits.placeScan (a := (a.putForm _).askRepaint) settled f text

end Keying

theorem Act.SettlingSound.wedge {a : Act} (h : a.SettlingSound) (cs : List Byte) : (a.wedge cs).SettlingSound := by
  induction cs generalizing a with
  | nil => exact h
  | cons c cs ih =>
    unfold Act.wedge
    split
    · next x _ form => exact ih ((h x form).enterChar h c)
    · exact h

theorem Act.Admits.scanItem {a : Act} {x : FormInstance} (h : a.Admits x) (sound : a.SettlingSound)
    (active : a.station.state = .active) (routes : Table RouteDef) (text : List Byte) :
    (a.scanItem routes x text).SettlingSound := by
  unfold Act.scanItem
  split
  · exact h.route active _ _
  · unfold Act.fallback
    split
    · exact sound
    · exact sound.wedge text

/-! ## Every item -/

theorem Act.Admits.itemAct (l : Library) (i : StationId) (it : Item) {a : Act} {x : FormInstance} (h : a.Admits x)
    (sound : a.SettlingSound) (active : a.station.state = .active) : (itemAct l i it a x).SettlingSound := by
  cases it with
  | char c => exact h.enterChar sound c
  | edit k =>
    cases k with
    | insert => exact Act.Admits.putForm (h.of_settling rfl)
    | delete => exact h.editField sound _
    | backspace => exact h.backspace sound
    | eraseField => exact h.editField sound _
    | eraseInput => exact Act.Admits.putForm (h.of_settling (FormInstance.eraseInputs_settling ..))
  | move k =>
    cases k with
    | pageNext => exact h.pageKey sound active _
    | pagePrior => exact h.pageKey sound active _
    | _ => exact h.move _
  | reset => exact Act.Admits.leaves (h.of_settling (y := { x with insert := false }) rfl) rfl rfl rfl id
  | intent k =>
    cases k with
    | enter => exact h.send fun y hy => hy.fullSend active i _
    | function n => exact h.send fun y hy => hy.functionSend active i n
    | cancel => exact h.send fun y hy => hy.compose i _ false
    | clear => exact h.send fun y hy => Act.Admits.compose (hy.of_settling (FormInstance.restore_settling y)) i _ false
  | scan text => exact h.scanItem sound active l.routes text

theorem Act.Admits.takeItem (l : Library) (i : StationId) (it : Item) {a : Act} {x : FormInstance} (h : a.Admits x)
    (sound : a.SettlingSound) (active : a.station.state = .active) :
    (a.takeItem it x (Machine.itemAct l i it)).SettlingSound := by
  have dropped : a.dropHead.SettlingSound := sound
  by_cases free : a.station.keyboard = .free
  · rw [Act.takeItem_free it x _ free]
    exact Act.Admits.itemAct l i it (a := a.dropHead) h dropped active
  · unfold Act.takeItem
    split
    · next e => exact absurd e free
    all_goals
      split
      · exact Act.Admits.leaves (h.of_settling (y := { x with insert := false }) rfl) rfl rfl rfl id
      · exact dropped

/-! ## Orders -/

theorem newInstance_settling (number generation : Nat) (d : ActiveForm) (classes : Table ClassDef) (up : Bool) :
    (newInstance number generation d classes up).settling = up :=
  FormInstance.recomputeAll_settling _

/-- The page option of an order sets settling in ACTIVE alone, while the line is UP (R43, R44, R146). -/
theorem Station.SettlingSound.turned {st : Station} (h : st.SettlingSound) {x y : FormInstance}
    (form : st.form = some x) (same : y.settling = x.settling) (page : Option Nat)
    (settling : (st.turned page y).settling = true) :
    st.state = .active ∧ st.line.up = true ∧
      ((page.isSome && decide (st.state = .active)) = true ∨ st.line.Repaints) := by
  by_cases turns : page = none ∨ st.state ≠ .active
  · rw [Station.turned_settling y turns, same] at settling
    obtain ⟨active, up, coming⟩ := h x form settling
    exact ⟨active, up, .inr coming⟩
  · obtain ⟨some, active⟩ := not_or.mp turns
    obtain ⟨p, rfl⟩ := Option.ne_none_iff_exists'.mp some
    have active := not_not.mp active
    rw [Station.turned, if_pos active] at settling
    exact ⟨active, settling, .inl (decide_eq_true active)⟩

/-- An event that leaves the instance, the station state and the repaint. -/
theorem Station.SettlingSound.kept {st : Station} {a : Act} (h : st.SettlingSound)
    (form : a.station.form = st.form) (state : a.station.state = st.state) (up : a.station.line.up = st.line.up)
    (repaints : st.line.Repaints → a.station.line.Repaints) : a.SettlingSound := by
  intro x hx settling
  obtain ⟨active, isUp, coming⟩ := h x (form ▸ hx) settling
  exact ⟨state.trans active, up.trans isUp, .inr (repaints coming)⟩

/-- An event that clears settling (R152, R158, R166). -/
theorem Act.settlingSound_calmed {a : Act} {form : Option FormInstance}
    (h : a.station.form = form.map fun x => x.settle false) : a.SettlingSound := by
  intro y hy
  rw [h] at hy
  obtain ⟨x, -, rfl⟩ := Option.map_eq_some_iff.mp hy
  exact a.admits_of_calm rfl

theorem OrderMove.settlingSound {l : Library} {i : StationId} {flags : BitVec 8} {st : Station} {a : Act}
    (move : OrderMove l i flags st a) (h : st.SettlingSound) : a.SettlingSound := by
  cases move with
  | shown hold _ _ =>
    intro x hx settling
    cases hx
    rw [newInstance_settling] at settling
    exact ⟨rfl, settling, .inl rfl⟩
  | wrote _ _ form _ _ =>
    rw [Act.writeRest_eq]
    intro y hy settling
    cases hy
    rw [Station.written_settling] at settling
    exact h.turned form (writeFields_settling ..) _ settling
  | noticed _ _ _ _ => exact h.kept rfl rfl rfl id
  | held _ _ => exact h.kept rfl rfl rfl id
  | released _ _ => exact h.kept rfl rfl rfl id
  | @turned x p _ form _ _ =>
    intro y hy settling
    cases hy
    exact h.turned form rfl (some p) settling
  | reread _ _ _ => exact h.kept rfl rfl rfl id
  | set c _ =>
    cases on : c.scanner with
    | none => exact h.kept rfl rfl (by simp only) (by simp only; exact id)
    | some on => exact h.kept rfl rfl rfl id
  | reset => exact fun _ e => nomatch e
  | suspended _ _ _ _ => exact Act.settlingSound_calmed rfl
  | resumed _ =>
    cases form : st.form with
    | some x =>
      rw [Act.resume_some form]
      intro y hy settling
      cases hy
      exact ⟨rfl, settling, .inl rfl⟩
    | none =>
      rw [Act.resume_none form]
      intro y hy
      rw [form] at hy
      cases hy
  | unchanged => exact Act.settlingSound_start h

/-! ## Every event -/

theorem ActMove.settlingSound {l : Library} {i : StationId} {flags : BitVec 8} {st : Station} {a : Act}
    (move : ActMove l i flags st a) (h : st.SettlingSound) : a.SettlingSound := by
  cases move with
  | taken head =>
    obtain ⟨active, form, -⟩ := Station.head?_some head
    have sound := Act.settlingSound_start h
    exact (sound _ form).takeItem l i _ sound active
  | silent _ => exact Act.settlingSound_calmed rfl
  | sent _ =>
    rw [Act.transmitted_eq]
    cases st.line.repaintDone with
    | true => exact Act.settlingSound_calmed rfl
    | false => exact h.kept rfl rfl rfl id
  | expires _ => exact h.kept rfl rfl rfl id
  | collected _ => exact h.kept rfl rfl rfl id
  | ordered valid order applied => exact (order_cases valid order applied).settlingSound h
  | partReset => exact fun _ e => nomatch e

/-- A message accepted on an UP line leaves the repaint; on a DOWN line nothing was settling (R158, R159). -/
theorem LineMove.settlingSound {st u : Station} (move : LineMove st u) (h : st.SettlingSound) : u.SettlingSound := by
  cases move with
  | read r => exact h
  | parity => exact h
  | framing => exact h
  | @accepted message _ =>
    have a := Act.arrived st message
    refine Act.SettlingSound.finish (fun x hx settling => ?_) st.image
    obtain ⟨active, up, coming⟩ := h x (a.form ▸ hx) settling
    obtain ⟨n, sc, line, -⟩ := a.line
    rw [Station.hear_up up] at line
    refine ⟨a.state.trans active, ?_, .inr ?_⟩
    · rw [line]
      rfl
    · rw [line]
      exact coming

theorem StationMove.settlingSound {l : Library} {i : StationId} {flags : BitVec 8} {st u : Station}
    (move : StationMove l i flags st u) (h : st.SettlingSound) : u.SettlingSound := by
  cases move with
  | stays => exact h
  | power => exact fun _ e => nomatch e
  | event move => exact (move.settlingSound h).finish st.image
  | heard moves =>
    induction moves with
    | refl => exact h
    | tail _ move ih => exact move.settlingSound ih

/-- Settles O10: whatever a step makes of a station (`step_station`), an instance that settles has a repaint coming. -/
theorem stepKeepsSettlingAnswered : Obligations.StepKeepsSettlingAnswered :=
  fun _ _ h stepped i => (step_station stepped i).settlingSound (h i)

end Sys2Proof.Machine
end

section
/-! The screen image (R39 to R42): its dimensions, what stands in each place, and that the stored one pictures its
station. -/

namespace Sys2Proof.Machine

/-! ## Texts in a row of places -/

/-- The places of a row from offset `off` on show a text, padded with blanks to the width, in one rendition. -/
def Shows (row : List Place) (off width : Nat) (text : List Byte) (rend : Rendition) : Prop :=
  ∀ k, k < width → row[off + k]? = some ⟨text.getD k blank, rend⟩

theorem padCut_getElem? {n k : Nat} (t : List Byte) (inside : k < n) : (padCut n t)[k]? = some (t.getD k blank) := by
  unfold padCut
  rw [List.getElem?_take_of_lt inside, List.getD_eq_getElem?_getD]
  by_cases within : k < t.length
  · rw [List.getElem?_append_left within, List.getElem?_eq_getElem within]
    rfl
  · have past := Nat.le_of_not_lt within
    rw [List.getElem?_append_right past, List.getElem?_eq_none past,
      List.getElem?_replicate_of_lt (by omega)]
    rfl

@[simp] theorem shown_length (r : Rendition) (t : List Byte) : (shown r t).length = t.length := List.length_map _

theorem shown_append (r : Rendition) (t u : List Byte) : shown r (t ++ u) = shown r t ++ shown r u := List.map_append

/-- A text padded or cut to an area shows there as it is padded with blanks. -/
theorem shows_padCut (r : Rendition) (n : Nat) (t : List Byte) : Shows (shown r (padCut n t)) 0 n t r := by
  intro k inside
  rw [Nat.zero_add, shown, List.getElem?_map, padCut_getElem? t inside]
  rfl

/-- A text cut to `m` characters shows in the first `m` places of its area. -/
theorem shows_padCut_front (r : Rendition) {m n : Nat} (t : List Byte) (fits : m ≤ n) :
    Shows (shown r (padCut n (padCut m t))) 0 m t r := by
  intro k inside
  rw [shows_padCut r n (padCut m t) k (Nat.lt_of_lt_of_le inside fits), List.getD_eq_getElem?_getD,
    padCut_getElem? t inside]
  rfl

/-- Behind a text cut to `m` characters its area holds blanks. -/
theorem shows_padCut_rest (r : Rendition) {m n : Nat} (t : List Byte) (fits : m ≤ n) :
    Shows (shown r (padCut n (padCut m t))) m (n - m) [] r := by
  intro k inside
  have here := shows_padCut r n (padCut m t) (m + k) (by omega)
  rw [Nat.zero_add, List.getD_eq_getElem?_getD,
    List.getElem?_eq_none (l := padCut m t) (by rw [padCut_length]; exact Nat.le_add_right ..)] at here
  exact here

section Rows

variable {row : List Place} {off width : Nat} {text : List Byte} {rend : Rendition} (h : Shows row off width text rend)
include h

theorem Shows.append_left (rest : List Place) : Shows (row ++ rest) off width text rend := by
  intro k inside
  have here := h k inside
  obtain ⟨bound, -⟩ := List.getElem?_eq_some_iff.mp here
  rw [List.getElem?_append_left bound, here]

theorem Shows.append_right (front : List Place) : Shows (front ++ row) (front.length + off) width text rend := by
  intro k inside
  rw [Nat.add_assoc, List.getElem?_append_right (Nat.le_add_right ..), Nat.add_sub_cancel_left]
  exact h k inside

/-- Blanks behind an area of blanks. -/
theorem Shows.join {more : Nat} (blank : text = []) (next : Shows row (off + width) more [] rend) :
    Shows row off (width + more) [] rend := by
  subst blank
  intro k inside
  by_cases first : k < width
  · exact h k first
  · have there := next (k - width) (by omega)
    rw [show off + width + (k - width) = off + k by omega] at there
    exact there

end Rows

/-! ## The status line (R40, R41) -/

/-- What a status line shows: each area in its columns, and blanks between and after (R40). -/
structure StatusAreas.Layout (a : StatusAreas) (row : List Place) : Prop where
  notice : Shows row 0 40 a.notice .normal
  keyboard : Shows row 41 8 a.keyboard (if a.reverse then .reverse else .normal)
  page : Shows row 50 4 a.page .normal
  insert : Shows row 55 3 a.insert .normal
  scanner : Shows row 59 7 a.scanner .normal
  attention : Shows row 67 4 a.attention .normal
  afterNotice : Shows row 40 1 [] .normal
  afterKeyboard : Shows row 49 1 [] .normal
  afterPage : Shows row 54 1 [] .normal
  afterInsert : Shows row 58 1 [] .normal
  afterScanner : Shows row 66 1 [] .normal
  afterAttention : Shows row 71 9 [] .normal

/-- The columns from 50 on, as `statusRow` lays them out: a blank, then the page, insert, scanner and attention
indicators, each with the blanks behind it. -/
theorem indicators_layout (page insert scanner attention : List Byte) :
    let row := shown .normal (blank :: padCut 5 (padCut 4 page) ++ padCut 4 (padCut 3 insert) ++
      padCut 8 (padCut 7 scanner) ++ padCut 13 (padCut 4 attention))
    Shows row 0 1 [] .normal ∧ (Shows row 1 4 page .normal ∧ Shows row 5 1 [] .normal) ∧
      (Shows row 6 3 insert .normal ∧ Shows row 9 1 [] .normal) ∧
      (Shows row 10 7 scanner .normal ∧ Shows row 17 1 [] .normal) ∧
      Shows row 18 4 attention .normal ∧ Shows row 22 9 [] .normal := by
  have area (n : Nat) {m : Nat} (t : List Byte) (fits : m ≤ n) (front rest : List Byte) :
      Shows (shown .normal (front ++ (padCut n (padCut m t) ++ rest))) front.length m t .normal ∧
        Shows (shown .normal (front ++ (padCut n (padCut m t) ++ rest))) (front.length + m) (n - m) [] .normal := by
    have first := ((shows_padCut_front .normal t fits).append_left (shown .normal rest)).append_right
      (shown .normal front)
    have behind := ((shows_padCut_rest .normal t fits).append_left (shown .normal rest)).append_right
      (shown .normal front)
    rw [shown_length] at first behind
    rw [shown_append, shown_append]
    exact ⟨first, behind⟩
  have pages := area 5 page (by decide : 4 ≤ 5) [blank] (padCut 4 (padCut 3 insert) ++
    (padCut 8 (padCut 7 scanner) ++ padCut 13 (padCut 4 attention)))
  have inserts := area 4 insert (by decide : 3 ≤ 4) (blank :: padCut 5 (padCut 4 page))
    (padCut 8 (padCut 7 scanner) ++ padCut 13 (padCut 4 attention))
  have scanners := area 8 scanner (by decide : 7 ≤ 8) (blank :: padCut 5 (padCut 4 page) ++ padCut 4 (padCut 3 insert))
    (padCut 13 (padCut 4 attention))
  have attentions := area 13 attention (by decide : 4 ≤ 13) (blank :: padCut 5 (padCut 4 page) ++
    padCut 4 (padCut 3 insert) ++ padCut 8 (padCut 7 scanner)) []
  simp only [List.append_assoc, List.cons_append, List.append_nil, List.nil_append, List.length_cons,
    List.length_append, padCut_length, List.length_nil, Nat.reduceAdd, Nat.reduceSub] at pages inserts scanners attentions ⊢
  refine ⟨?_, pages, inserts, scanners, attentions⟩
  intro k inside
  obtain rfl := Nat.lt_one_iff.mp inside
  rfl

theorem statusRow_layout (a : StatusAreas) : a.Layout (statusRow a) := by
  obtain ⟨h50, ⟨page, h55⟩, ⟨insert, h59⟩, ⟨scanner, h67⟩, attention, h72⟩ :=
    indicators_layout a.page a.insert a.scanner a.attention
  have behind {off width : Nat} {t : List Byte} {row : List Place} (h : Shows row off width t .normal) :=
    h.append_right (shown .normal (padCut 41 (padCut 40 a.notice)) ++
      shown (if a.reverse then .reverse else .normal) (padCut 8 a.keyboard))
  simp only [List.length_append, shown_length, padCut_length, Nat.reduceAdd] at behind
  have fits : 40 ≤ 41 := by decide
  refine ⟨((shows_padCut_front .normal a.notice fits).append_left _).append_left _, ?_, behind page, behind insert,
    behind scanner, behind attention, ((shows_padCut_rest .normal a.notice fits).append_left _).append_left _,
    behind h50, behind h55, behind h59, behind h67, behind h72⟩
  have keyboard := ((shows_padCut (if a.reverse then .reverse else .normal) 8 a.keyboard).append_right
    (shown .normal (padCut 41 (padCut 40 a.notice))))
  rw [shown_length, padCut_length] at keyboard
  exact keyboard.append_left _

@[simp] theorem statusRow_length (a : StatusAreas) : (statusRow a).length = 80 := by
  simp [statusRow]

/-- SUSPENDED shows its name in columns 42 to 50, and blanks else (R40). -/
theorem suspendedStatus_layout :
    Shows suspendedStatus 0 41 [] .normal ∧
      Shows suspendedStatus 41 9 (textOf ['S', 'U', 'S', 'P', 'E', 'N', 'D', 'E', 'D']) .normal ∧
      Shows suspendedStatus 50 30 [] .normal := by
  unfold Shows
  decide

/-- NO-FORM shows its name and the scanner indicator, and blanks else (R40). -/
theorem noFormStatus_layout (scanner : List Byte) :
    Shows (noFormStatus scanner) 0 41 [] .normal ∧
      Shows (noFormStatus scanner) 41 8 (textOf ['N', 'O', ' ', 'F', 'O', 'R', 'M']) .normal ∧
      Shows (noFormStatus scanner) 49 10 [] .normal ∧ Shows (noFormStatus scanner) 59 7 scanner .normal ∧
      Shows (noFormStatus scanner) 66 14 [] .normal := by
  have row : StatusAreas.Layout _ (noFormStatus scanner) := statusRow_layout _
  refine ⟨row.notice.join rfl row.afterNotice, row.keyboard, ?_, row.scanner, ?_⟩
  · exact row.afterKeyboard.join rfl (row.page.join rfl (row.afterPage.join rfl (row.insert.join rfl row.afterInsert)))
  · exact row.afterScanner.join rfl (row.attention.join rfl row.afterAttention)

/-- A page number of one digit (R40). -/
theorem decimal_digit {n : Nat} (small : n ≤ 9) : decimal n = [byteOf (0x30 + n)] := by
  have digit : n < 10 := Nat.lt_succ_of_le small
  simp [decimal, decimalAux, digit, Nat.mod_eq_of_lt digit]

/-! ## Rows 1 to 23 (R39) -/

/-- A place of the form area that lies in no field is a blank in NORMAL. -/
theorem formPlace_blank {fields : List FieldRec} {p : Nat} (none : ∀ f ∈ fields, f.covers p ≠ true) :
    formPlace fields p = ⟨blank, .normal⟩ := by
  rw [formPlace, List.find?_eq_none.mpr none]

/-- A place that lies in one field alone is a place of that field. -/
theorem formPlace_of_covers {fields : List FieldRec} {p : Nat} {f : FieldRec} (mem : f ∈ fields)
    (covers : f.covers p = true) (alone : ∀ g ∈ fields, g.covers p = true → g = f) :
    formPlace fields p = f.placeAt (p - f.start) := by
  have some : (fields.find? fun g => g.covers p).isSome = true := List.find?_isSome.mpr ⟨f, mem, covers⟩
  obtain ⟨g, found⟩ := Option.isSome_iff_exists.mp some
  obtain rfl := alone g (List.mem_of_find?_eq_some found) (List.find?_some (p := fun g : FieldRec => g.covers p) found)
  rw [formPlace, found]

theorem FieldRec.isInput_iff (f : FieldRec) : f.isInput = true ↔ f.kind = .input := beq_iff_eq

/-- A place of a field: its character, hidden in a FIXED field with HIDDEN, in the rendition of R39. -/
theorem FieldRec.placeAt_eq {f : FieldRec} {off : Nat} {ch : Byte} (char : f.content[off]? = some ch) :
    f.placeAt off =
      ⟨if f.kind = .fixed ∧ f.defn.hidden = true then blank else ch,
        if f.mark.isSome = true then .reverse else if f.bright = true then .bright
        else if f.kind = .input then .underline else .normal⟩ := by
  have hidden : (!f.isInput && f.defn.hidden) = true ↔ f.kind = .fixed ∧ f.defn.hidden = true := by
    rw [FieldRec.isInput, Bool.and_eq_true]
    cases f.kind <;> simp
  simp only [FieldRec.placeAt, FieldRec.rendition, hidden, FieldRec.isInput_iff, List.getD_eq_getElem?_getD, char,
    Option.getD_some]

/-! ## The image -/

/-- The place of row `r`, column `c` of an image. -/
def placeIn (img : Image) (r c : Nat) : Option Place := (img[r - 1]?).bind fun row => row[c - 1]?

theorem composeImage_active {st : Station} {x : FormInstance} (active : st.state = .active)
    (form : st.form = some x) :
    composeImage st =
      (List.range 23).map (fun r => formRow (x.fields.filter fun f => f.defn.page == x.page) (r + 1)) ++
        [activeStatus st x] := by
  simp only [composeImage, active, form]

theorem composeImage_noForm {st : Station} (state : st.state = .noForm) :
    composeImage st = blankImage (noFormStatus (scannerText st.line.scanner)) := by
  simp only [composeImage, state]

theorem composeImage_suspended {st : Station} (state : st.state = .suspended) :
    composeImage st = blankImage suspendedStatus := by
  simp only [composeImage, state]

/-- What the image of a station is: that of its instance in ACTIVE, else blank rows over a status line. -/
theorem composeImage_cases (st : Station) :
    (∃ x, st.state = .active ∧ st.form = some x) ∨
      ∃ status, status.length = 80 ∧ composeImage st = blankImage status := by
  cases state : st.state with
  | noForm => exact .inr ⟨_, statusRow_length _, composeImage_noForm state⟩
  | suspended => exact .inr ⟨_, by decide, composeImage_suspended state⟩
  | active =>
    cases form : st.form with
    | some x => exact .inl ⟨x, rfl, rfl⟩
    | none =>
      exact .inr ⟨noFormStatus (scannerText st.line.scanner), statusRow_length _,
        by simp only [composeImage, state, form]⟩

theorem composeImage_length (st : Station) : (composeImage st).length = 24 := by
  obtain ⟨x, active, form⟩ | ⟨status, -, e⟩ := composeImage_cases st
  · simp [composeImage_active active form]
  · simp [e, blankImage]

theorem composeImage_row_length (st : Station) : ∀ row ∈ composeImage st, row.length = 80 := by
  intro row mem
  obtain ⟨x, active, form⟩ | ⟨status, length, e⟩ := composeImage_cases st
  · rw [composeImage_active active form, List.mem_append, List.mem_map, List.mem_singleton] at mem
    obtain ⟨r, -, rfl⟩ | rfl := mem
    · simp [formRow]
    · exact statusRow_length _
  · rw [e, blankImage, List.mem_append, List.mem_replicate, List.mem_singleton] at mem
    obtain ⟨-, rfl⟩ | rfl := mem
    · exact List.length_replicate
    · exact length

/-- A place of the form area of an ACTIVE station (R39). -/
theorem placeIn_active {st : Station} {x : FormInstance} (active : st.state = .active) (form : st.form = some x)
    {r c : Nat} (r1 : 1 ≤ r) (r23 : r ≤ 23) (c1 : 1 ≤ c) (c80 : c ≤ 80) :
    placeIn (composeImage st) r c =
      some (formPlace ((x.fields.filter fun f => f.defn.page == x.page).filter fun f => f.defn.row == r)
        ((r - 1) * 80 + (c - 1))) := by
  have row : r - 1 + 1 = r := Nat.sub_add_cancel r1
  have inside : r - 1 < 23 := by omega
  have column : c - 1 < 80 := by omega
  rw [placeIn, composeImage_active active form, List.getElem?_append_left (by simpa using inside), List.getElem?_map,
    List.getElem?_range inside, Option.map_some, Option.bind_some, row, formRow, List.getElem?_map,
    List.getElem?_range column]
  rfl

theorem placeIn_blankImage (status : List Place) {r c : Nat} (r1 : 1 ≤ r) (r23 : r ≤ 23) (c1 : 1 ≤ c) (c80 : c ≤ 80) :
    placeIn (blankImage status) r c = some ⟨blank, .normal⟩ := by
  rw [placeIn, blankImage, List.getElem?_append_left (by rw [List.length_replicate]; omega),
    List.getElem?_replicate_of_lt (by omega), Option.bind_some, blankRow, List.getElem?_replicate_of_lt (by omega)]

/-- The status line is row 24. -/
theorem Shows.placeIn {img : Image} {row : List Place} {off width : Nat} {text : List Byte} {rend : Rendition}
    (h : Shows row off width text rend) (status : img[23]? = some row) (k : Nat) (inside : k < width) :
    placeIn img 24 (off + 1 + k) = some ⟨text.getD k blank, rend⟩ := by
  rw [Machine.placeIn, show 24 - 1 = 23 from rfl, status, Option.bind_some,
    show off + 1 + k - 1 = off + k by omega]
  exact h k inside

/-- Blanks between the columns of an area without a text. -/
theorem Shows.placeIn_blank {img : Image} {row : List Place} {off width : Nat} {rend : Rendition}
    (h : Shows row off width [] rend) (status : img[23]? = some row) {c : Nat} (lo : off < c) (hi : c ≤ off + width) :
    Machine.placeIn img 24 c = some ⟨blank, rend⟩ := by
  have here := h.placeIn status (c - off - 1) (by omega)
  rw [show off + 1 + (c - off - 1) = c by omega] at here
  exact here

theorem composeImage_status {st : Station} {x : FormInstance} (active : st.state = .active) (form : st.form = some x) :
    (composeImage st)[23]? = some (activeStatus st x) := by
  rw [composeImage_active active form, List.getElem?_append_right (by simp)]
  simp

theorem blankImage_status (status : List Place) : (blankImage status)[23]? = some status := rfl

/-! ## The stored image pictures its station (R42) -/

/-- The image is composed of the station state, the instance, the keyboard, the notice, attention and the scanner
state (R39, R40). -/
theorem composeImage_congr {a b : Station} (state : b.state = a.state) (form : b.form = a.form)
    (keyboard : b.keyboard = a.keyboard) (notice : b.notice = a.notice) (attention : b.attention = a.attention)
    (scanner : b.line.scanner = a.line.scanner) : composeImage b = composeImage a := by
  simp only [composeImage, activeStatus, state, form, keyboard, notice, attention, scanner]

/-- An event recomposes the image at its end, and what follows leaves what the image is composed of. -/
theorem Act.finish_pictured (a : Act) (before : Image) : (a.finish before).Pictured :=
  (composeImage_congr (a := a.station) (b := a.finish before) rfl rfl rfl rfl rfl (a.finish_line_scanner before)).symm

theorem LineMove.pictured {st u : Station} (move : LineMove st u) (h : st.Pictured) : u.Pictured := by
  cases move with
  | read r => exact h.trans (composeImage_congr rfl rfl rfl rfl rfl rfl)
  | parity => exact h.trans (composeImage_congr rfl rfl rfl rfl rfl rfl)
  | framing => exact h.trans (composeImage_congr rfl rfl rfl rfl rfl rfl)
  | accepted _ => exact Act.finish_pictured _ _

theorem StationMove.pictured {l : Library} {i : StationId} {flags : BitVec 8} {st u : Station}
    (move : StationMove l i flags st u) (h : st.Pictured) : u.Pictured := by
  cases move with
  | stays => exact h
  | power => exact Station.reset_composer_sound.1
  | event _ => exact Act.finish_pictured _ _
  | heard moves =>
    induction moves with
    | refl => exact h
    | tail _ move ih => exact move.pictured ih

/-- The keyboard indicator (R41). -/
theorem keyboardText_eq (k : Keyboard) :
    keyboardText k = (match k with
      | .free => "" | .waiting => "WAIT" | .timedOut => "NO REPLY" | .held => "HOLD"
      | .inhibited .prot => "X PROT" | .inhibited .char => "X CHAR" | .inhibited .full => "X FULL"
      | .inhibited .format => "X FORMAT" | .inhibited .range => "X RANGE" | .inhibited .mand => "X MAND"
      | .inhibited .route => "X ROUTE" | .inhibited .pend => "X PEND" : String).toList.map
        fun ch => BitVec.ofNat 8 ch.toNat := by
  cases k with
  | inhibited r => cases r <;> rfl
  | _ => rfl

/-- The keyboard indicator's rendition (R40). -/
theorem keyboardReverse_eq (k : Keyboard) :
    (if keyboardReverse k = true then Rendition.reverse else .normal) =
      match k with
      | .inhibited _ => .reverse
      | .timedOut => .reverse
      | .free | .waiting | .held => .normal := by
  cases k <;> rfl

/-- A place of the form area shows nothing where it lies in no field, and else the place of its field (R39). -/
theorem placeIn_formArea {st : Station} {x : FormInstance} (active : st.state = .active) (form : st.form = some x)
    {r c : Nat} (r1 : 1 ≤ r) (r23 : r ≤ 23) (c1 : 1 ≤ c) (c80 : c ≤ 80) :
    let p := (r - 1) * 80 + (c - 1)
    let lies : FieldRec → Prop := fun f => f.defn.page = x.page ∧ f.defn.row = r ∧ f.covers p = true
    ((∀ f ∈ x.fields, ¬lies f) → placeIn (composeImage st) r c = some ⟨blank, .normal⟩) ∧
      ∀ f ∈ x.fields, lies f → (∀ g ∈ x.fields, lies g → g = f) →
        placeIn (composeImage st) r c = some (f.placeAt (p - f.start)) := by
  intro p lies
  have here : ∀ g, g ∈ ((x.fields.filter fun f => f.defn.page == x.page).filter fun f => f.defn.row == r) ↔
      g ∈ x.fields ∧ g.defn.page = x.page ∧ g.defn.row = r := by
    intro g
    rw [List.mem_filter, List.mem_filter, beq_iff_eq, beq_iff_eq, and_assoc]
  rw [placeIn_active active form r1 r23 c1 c80]
  constructor
  · intro none
    rw [formPlace_blank fun g hg covers => ?_]
    obtain ⟨mem, page, row⟩ := (here g).mp hg
    exact none g mem ⟨page, row, covers⟩
  · rintro f mem ⟨page, row, covers⟩ alone
    rw [formPlace_of_covers ((here f).mpr ⟨mem, page, row⟩) covers fun g hg inside => ?_]
    obtain ⟨gmem, gpage, grow⟩ := (here g).mp hg
    exact alone g gmem ⟨gpage, grow, inside⟩

/-- Settles O5: every event recomposes the image (`Act.finish_pictured`), and the composed image is read place by
place. -/
theorem stepKeepsTheImage : Obligations.StepKeepsTheImage := by
  refine ⟨fun _ _ h stepped i => (step_station stepped i).pictured (h i), fun st => ?_⟩
  have scanner : scannerText st.line.scanner =
      if st.line.scanner = .enabled then [] else "SCN OFF".toList.map fun ch => BitVec.ofNat 8 ch.toNat := by
    cases st.line.scanner <;> rfl
  refine ⟨composeImage_length st, composeImage_row_length st, fun x active form => ?_, fun inactive => ?_,
    fun noForm => ?_, fun suspended => ?_⟩
  · have row := composeImage_status active form
    have status : StatusAreas.Layout _ (activeStatus st x) := statusRow_layout _
    refine ⟨fun r c r1 r23 c1 c80 => ?_, status.notice.placeIn row, ?_, fun digit digits => ?_, ?_, ?_, ?_, ?_⟩
    · obtain ⟨nowhere, inside⟩ := placeIn_formArea active form r1 r23 c1 c80
      refine ⟨nowhere, fun f mem lies alone ch char => ?_⟩
      rw [← FieldRec.placeAt_eq char]
      exact inside f mem lies alone
    · have keyboard := status.keyboard.placeIn row
      dsimp only [activeStatus] at keyboard
      rw [keyboardText_eq, keyboardReverse_eq] at keyboard
      exact keyboard
    · have page := status.page.placeIn row
      dsimp only [activeStatus] at page
      rw [pageText, decimal_digit digit, decimal_digit digits] at page
      exact page
    · have insert := status.insert.placeIn row
      exact insert
    · have scan := status.scanner.placeIn row
      dsimp only [activeStatus] at scan
      rw [scanner] at scan
      exact scan
    · have attention := status.attention.placeIn row
      exact attention
    · intro c between
      have gap : c = 41 ∨ c = 50 ∨ c = 55 ∨ c = 59 ∨ c = 67 ∨ 72 ≤ c ∧ c ≤ 80 := by
        simpa only [List.mem_cons, List.not_mem_nil, or_false, or_assoc] using between
      obtain rfl | rfl | rfl | rfl | rfl | ⟨lo, hi⟩ := gap
      · exact status.afterNotice.placeIn_blank row (by decide) (by decide)
      · exact status.afterKeyboard.placeIn_blank row (by decide) (by decide)
      · exact status.afterPage.placeIn_blank row (by decide) (by decide)
      · exact status.afterInsert.placeIn_blank row (by decide) (by decide)
      · exact status.afterScanner.placeIn_blank row (by decide) (by decide)
      · exact status.afterAttention.placeIn_blank row lo hi
  · intro r c r1 r23 c1 c80
    obtain ⟨x, active, -⟩ | ⟨status, -, e⟩ := composeImage_cases st
    · exact absurd active inactive
    · rw [e]
      exact placeIn_blankImage status r1 r23 c1 c80
  · obtain ⟨before, name, between, scan, after⟩ := noFormStatus_layout (scannerText st.line.scanner)
    rw [composeImage_noForm noForm, ← scanner]
    have row := blankImage_status (noFormStatus (scannerText st.line.scanner))
    refine ⟨name.placeIn row, scan.placeIn row, fun c lo hi notName notScanner => ?_⟩
    obtain here | here | here : c ≤ 41 ∨ (49 < c ∧ c ≤ 59) ∨ 66 < c := by omega
    · exact before.placeIn_blank row lo (by omega)
    · exact between.placeIn_blank row here.1 (by omega)
    · exact after.placeIn_blank row here (by omega)
  · obtain ⟨before, name, after⟩ := suspendedStatus_layout
    rw [composeImage_suspended suspended]
    have row := blankImage_status suspendedStatus
    refine ⟨name.placeIn row, fun c lo hi notName => ?_⟩
    obtain here | here : c ≤ 41 ∨ 50 < c := by omega
    · exact before.placeIn_blank row lo (by omega)
    · exact after.placeIn_blank row here (by omega)

end Sys2Proof.Machine
end

section
/-! Paint queues (R161 to R163): one span for each changed row, and merging keeps the queued spans on the screen and
apart. -/

namespace Sys2Proof.Machine

/-! ## Changed columns and changed rows (R42) -/

theorem mem_changedColumns_cons {a b : Place} {old new : List Place} {first c : Nat} :
    c ∈ changedColumns first (a :: old) (b :: new) ↔ c = first ∧ a ≠ b ∨ c ∈ changedColumns (first + 1) old new := by
  rw [changedColumns]
  split <;> simp_all

/-- A column is changed when both rows have it and it differs. -/
theorem mem_changedColumns {old new : List Place} {first c : Nat} :
    c ∈ changedColumns first old new ↔
      first ≤ c ∧ ∃ a b, old[c - first]? = some a ∧ new[c - first]? = some b ∧ a ≠ b := by
  induction old generalizing new first with
  | nil => simp [changedColumns]
  | cons a old ih =>
    cases new with
    | nil => simp [changedColumns]
    | cons b new =>
      rw [mem_changedColumns_cons, ih]
      by_cases here : c = first
      · subst here
        simp
      · obtain past | before : first < c ∨ c < first := by omega
        · rw [show c - first = c - (first + 1) + 1 by omega, List.getElem?_cons_succ, List.getElem?_cons_succ]
          simp [here, past.le, Nat.succ_le_of_lt past]
        · simp [here, Nat.not_le.mpr before, Nat.not_le.mpr (Nat.lt_succ_of_lt before)]

theorem changedColumns_sorted (old new : List Place) (first : Nat) :
    (changedColumns first old new).Pairwise (· < ·) := by
  induction old generalizing new first with
  | nil => simp [changedColumns]
  | cons a old ih =>
    cases new with
    | nil => simp [changedColumns]
    | cons b new =>
      unfold changedColumns
      split
      · exact ih new (first + 1)
      · exact List.pairwise_cons.mpr ⟨fun c mem => (mem_changedColumns.mp mem).1, ih new (first + 1)⟩

/-- The span of a row runs from its lowest changed column to its highest (R42). -/
theorem rowSpan_eq_some {r : Nat} {old new : List Place} {s : Span} :
    rowSpan r old new = some s ↔
      s.row = r ∧ s.first ∈ changedColumns 1 old new ∧ s.last ∈ changedColumns 1 old new ∧
        ∀ c ∈ changedColumns 1 old new, s.first ≤ c ∧ c ≤ s.last := by
  have sorted := changedColumns_sorted old new 1
  unfold rowSpan
  cases columns : changedColumns 1 old new with
  | nil => simp
  | cons c cs =>
    rw [columns] at sorted
    have lowest : ∀ d ∈ c :: cs, c ≤ d := by
      intro d mem
      obtain rfl | mem := List.mem_cons.mp mem
      · exact le_rfl
      · exact (List.rel_of_pairwise_cons sorted mem).le
    have highest : ∀ d ∈ c :: cs, d ≤ (c :: cs).getLast (List.cons_ne_nil c cs) :=
      fun d mem => (sorted.imp Nat.le_of_lt).rel_getLast mem
    obtain ⟨row, first, last⟩ := s
    simp only [Option.some.injEq, Span.mk.injEq]
    constructor
    · rintro ⟨rfl, rfl, rfl⟩
      exact ⟨rfl, List.mem_cons_self, List.getLast_mem _, fun d mem => ⟨lowest d mem, highest d mem⟩⟩
    · rintro ⟨rfl, firstMem, lastMem, bounds⟩
      exact ⟨rfl, le_antisymm (lowest _ firstMem) (bounds _ List.mem_cons_self).1,
        le_antisymm (bounds _ (List.getLast_mem _)).2 (highest _ lastMem)⟩

theorem mem_imageSpans_cons {r : Nat} {a b : List Place} {old new : Image} {s : Span} :
    s ∈ imageSpans r (a :: old) (b :: new) ↔ rowSpan r a b = some s ∨ s ∈ imageSpans (r + 1) old new := by
  rw [imageSpans]
  cases rowSpan r a b <;> simp [eq_comm]

/-- The spans between two images are those of the rows that both have. -/
theorem mem_imageSpans {r : Nat} {old new : Image} {s : Span} :
    s ∈ imageSpans r old new ↔
      r ≤ s.row ∧ ∃ a b, old[s.row - r]? = some a ∧ new[s.row - r]? = some b ∧ rowSpan s.row a b = some s := by
  induction old generalizing new r with
  | nil => simp [imageSpans]
  | cons a old ih =>
    cases new with
    | nil => simp [imageSpans]
    | cons b new =>
      rw [mem_imageSpans_cons, ih]
      by_cases here : s.row = r
      · subst here
        simp
      · have other : rowSpan r a b ≠ some s := fun found => here (rowSpan_eq_some.mp found).1
        obtain past | before : r < s.row ∨ s.row < r := by omega
        · rw [show s.row - r = s.row - (r + 1) + 1 by omega, List.getElem?_cons_succ, List.getElem?_cons_succ]
          simp [other, past.le, Nat.succ_le_of_lt past]
        · simp [other, Nat.not_le.mpr before, Nat.not_le.mpr (Nat.lt_succ_of_lt before)]

/-- The spans of one event come in ascending row order (log 8). -/
theorem imageSpans_sorted (old new : Image) (r : Nat) :
    (imageSpans r old new).Pairwise (fun p q => p.row < q.row) := by
  induction old generalizing new r with
  | nil => simp [imageSpans]
  | cons a old ih =>
    cases new with
    | nil => simp [imageSpans]
    | cons b new =>
      rw [imageSpans]
      split
      · next s found =>
        obtain ⟨row, -⟩ := rowSpan_eq_some.mp found
        refine List.pairwise_cons.mpr ⟨fun q mem => ?_, ih new (r + 1)⟩
        rw [row]
        exact (mem_imageSpans.mp mem).1
      · exact ih new (r + 1)

/-- The changed columns of two rows of 80 places. -/
theorem mem_changedColumns_row {old new : List Place} (oldLength : old.length = 80) (newLength : new.length = 80)
    {c : Nat} : c ∈ changedColumns 1 old new ↔ 1 ≤ c ∧ c ≤ 80 ∧ old[c - 1]? ≠ new[c - 1]? := by
  rw [mem_changedColumns]
  refine and_congr_right fun lo => ?_
  by_cases hi : c ≤ 80
  · have inOld : c - 1 < old.length := by omega
    have inNew : c - 1 < new.length := by omega
    simp [hi, List.getElem?_eq_getElem inOld, List.getElem?_eq_getElem inNew]
  · have past : 80 ≤ c - 1 := by omega
    simp [hi, List.getElem?_eq_none (oldLength ▸ past)]

/-- The spans that an event hands lie on the screen, as the image it composes does. -/
theorem onScreen_of_mem_imageSpans {old new : Image} (rows : new.length = 24) (columns : ∀ row ∈ new, row.length = 80)
    {s : Span} (mem : s ∈ imageSpans 1 old new) : s.OnScreen := by
  obtain ⟨lo, a, b, -, there, found⟩ := mem_imageSpans.mp mem
  obtain ⟨-, first, last, bounds⟩ := rowSpan_eq_some.mp found
  obtain ⟨hi, -⟩ := List.getElem?_eq_some_iff.mp there
  have width := columns b (List.mem_of_getElem? there)
  obtain ⟨one, -⟩ := mem_changedColumns.mp first
  obtain ⟨-, p, q, -, inside, -⟩ := mem_changedColumns.mp last
  obtain ⟨end80, -⟩ := List.getElem?_eq_some_iff.mp inside
  have order := (bounds _ last).1
  exact ⟨lo, by omega, one, order, by omega⟩

/-! ## Spans that touch (R161) -/

theorem Span.touches_iff (a b : Span) :
    a.touches b = true ↔ a.row = b.row ∧ a.first ≤ b.last + 1 ∧ b.first ≤ a.last + 1 := by
  simp [Span.touches, and_assoc]

theorem Span.touches_comm (a b : Span) : a.touches b = b.touches a := by
  rw [Bool.eq_iff_iff, Span.touches_iff, Span.touches_iff]
  omega

/-- Of spans no two of which touch, any two different ones do not. -/
theorem apart_of_mem {q : List Span} (apart : q.Pairwise fun a b => a.touches b = false) {a b : Span} (ha : a ∈ q)
    (hb : b ∈ q) (ne : a ≠ b) : a.touches b = false := by
  have : Std.Symm fun a b : Span => a.touches b = false := ⟨fun a b h => (Span.touches_comm b a).trans h⟩
  exact apart.forall ha hb ne

/-- `h` runs from the lowest first column to the highest last one of `s` and the spans `ts` (R161). -/
structure Span.HullOf (h s : Span) (ts : List Span) : Prop where
  row : h.row = s.row
  first_le : h.first ≤ s.first
  le_last : s.last ≤ h.last
  covers : ∀ p ∈ ts, h.first ≤ p.first ∧ p.last ≤ h.last
  first : h.first = s.first ∨ ∃ p ∈ ts, h.first = p.first
  last : h.last = s.last ∨ ∃ p ∈ ts, h.last = p.last

theorem Span.hullOf_foldl (s : Span) (ts : List Span) : (ts.foldl Span.hull s).HullOf s ts := by
  induction ts generalizing s with
  | nil => exact ⟨rfl, le_rfl, le_rfl, by simp, .inl rfl, .inl rfl⟩
  | cons t ts ih =>
    rw [List.foldl_cons]
    obtain ⟨row, first_le, le_last, covers, first, last⟩ := ih (s.hull t)
    change _ ≤ min s.first t.first at first_le
    change max s.last t.last ≤ _ at le_last
    refine ⟨row, by omega, by omega, ?_, ?_, ?_⟩
    · intro p mem
      obtain rfl | mem := List.mem_cons.mp mem
      · omega
      · exact covers p mem
    · obtain e | ⟨p, mem, e⟩ := first
      · obtain least | least := min_choice s.first t.first
        · exact .inl (e.trans least)
        · exact .inr ⟨t, List.mem_cons_self, e.trans least⟩
      · exact .inr ⟨p, List.mem_cons_of_mem t mem, e⟩
    · obtain e | ⟨p, mem, e⟩ := last
      · obtain most | most := max_choice s.last t.last
        · exact .inl (e.trans most)
        · exact .inr ⟨t, List.mem_cons_self, e.trans most⟩
      · exact .inr ⟨p, List.mem_cons_of_mem t mem, e⟩

/-- What the hull touches, `s` or one of the merged spans touches: the merge makes no new neighbour. -/
theorem Span.HullOf.touches {h s : Span} {ts : List Span} (hull : h.HullOf s ts)
    (touching : ∀ p ∈ ts, s.touches p = true) {r : Span} (real : r.first ≤ r.last) (near : h.touches r = true) :
    s.touches r = true ∨ ∃ p ∈ ts, p.touches r = true := by
  obtain ⟨row, left, right⟩ := (Span.touches_iff h r).mp near
  have sameRow : s.row = r.row := hull.row.symm.trans row
  by_cases far : s.touches r = true
  · exact .inl far
  · have outside : ¬(s.first ≤ r.last + 1 ∧ r.first ≤ s.last + 1) :=
      fun inside => far ((Span.touches_iff s r).mpr ⟨sameRow, inside⟩)
    refine .inr ?_
    obtain before | after : r.last + 1 < s.first ∨ s.last + 1 < r.first := by omega
    · obtain e | ⟨p, mem, e⟩ := hull.first
      · omega
      · obtain ⟨pRow, meets, -⟩ := (Span.touches_iff s p).mp (touching p mem)
        exact ⟨p, mem, (Span.touches_iff p r).mpr ⟨pRow.symm.trans sameRow, by omega, by omega⟩⟩
    · obtain e | ⟨p, mem, e⟩ := hull.last
      · omega
      · obtain ⟨pRow, -, meets⟩ := (Span.touches_iff s p).mp (touching p mem)
        exact ⟨p, mem, (Span.touches_iff p r).mpr ⟨pRow.symm.trans sameRow, by omega, by omega⟩⟩

/-! ## The merge (R161 case 3) -/

theorem replaceTouched_eq {m x : Span} (h : Span) {a b : List Span} (first : m.touches x = true)
    (before : ∀ p ∈ a, m.touches p = false) :
    replaceTouched m h (a ++ x :: b) = a ++ h :: b.filter fun p => !m.touches p := by
  induction a with
  | nil => rw [List.nil_append, replaceTouched, if_pos first, List.nil_append]
  | cons p a ih =>
    have apart := before p List.mem_cons_self
    rw [List.cons_append, replaceTouched, if_neg (by rw [apart]; decide),
      ih fun q mem => before q (List.mem_cons_of_mem p mem), List.cons_append]

/-- A merge that has left its span apart from every other is over: to repeat it changes nothing. -/
theorem mergeSpan_of_apart (n : Nat) {h : Span} {a b : List Span} (real : h.first ≤ h.last)
    (before : ∀ p ∈ a, h.touches p = false) (after : ∀ p ∈ b, h.touches p = false) :
    mergeSpan n h (a ++ h :: b) = a ++ h :: b := by
  have self : h.touches h = true := (Span.touches_iff h h).mpr ⟨rfl, by omega, by omega⟩
  have hull : hullOver h (a ++ h :: b) = h := by
    have touched : (a ++ h :: b).filter h.touches = [h] := by
      rw [List.filter_append, List.filter_cons_of_pos self,
        List.filter_eq_nil_iff.mpr fun p mem => by simp [before p mem],
        List.filter_eq_nil_iff.mpr fun p mem => by simp [after p mem], List.nil_append]
    rw [hullOver, touched, List.foldl_cons, List.foldl_nil, Span.hull, min_self, max_self]
  have replaced : replaceTouched h h (a ++ h :: b) = a ++ h :: b := by
    rw [replaceTouched_eq h self before, List.filter_eq_self.mpr fun p mem => by simp [after p mem]]
  induction n with
  | zero => rw [mergeSpan, hull, replaced]
  | succ n ih => rw [mergeSpan, hull, replaced, ih]

/-- THE MERGE: a span that touches queued ones takes the place of the earliest as their hull, which touches none of
those that are left (R161 case 3). -/
theorem mergeSpan_eq (n : Nat) {m x : Span} {a b : List Span} (real : m.first ≤ m.last)
    (spans : ∀ p ∈ a ++ x :: b, p.first ≤ p.last) (apart : (a ++ x :: b).Pairwise fun p q => p.touches q = false)
    (first : m.touches x = true) (before : ∀ p ∈ a, m.touches p = false) :
    ∃ h : Span, h.HullOf m ((a ++ x :: b).filter m.touches) ∧
      mergeSpan n m (a ++ x :: b) = a ++ h :: b.filter (fun p => !m.touches p) ∧
      (∀ p ∈ a, h.touches p = false) ∧ ∀ p ∈ b.filter (fun p => !m.touches p), h.touches p = false := by
  have hull : (hullOver m (a ++ x :: b)).HullOf m ((a ++ x :: b).filter m.touches) := Span.hullOf_foldl m _
  have far : ∀ r ∈ a ++ x :: b, m.touches r = false → (hullOver m (a ++ x :: b)).touches r = false := by
    intro r mem away
    by_contra near
    obtain meets | ⟨p, touched, meets⟩ := hull.touches (fun p touched => (List.mem_filter.mp touched).2) (spans r mem)
      (Bool.eq_true_of_not_eq_false near)
    · rw [away] at meets
      cases meets
    · obtain ⟨queued, touches⟩ := List.mem_filter.mp touched
      have ne : p ≠ r := by
        rintro rfl
        rw [away] at touches
        cases touches
      rw [apart_of_mem apart queued mem ne] at meets
      cases meets
  have farBefore : ∀ p ∈ a, (hullOver m (a ++ x :: b)).touches p = false :=
    fun p mem => far p (List.mem_append_left _ mem) (before p mem)
  have farAfter : ∀ p ∈ b.filter (fun p => !m.touches p), (hullOver m (a ++ x :: b)).touches p = false := by
    intro p mem
    obtain ⟨queued, away⟩ := List.mem_filter.mp mem
    exact far p (List.mem_append_right _ (List.mem_cons_of_mem x queued)) (by simpa using away)
  refine ⟨_, hull, ?_, farBefore, farAfter⟩
  have once := replaceTouched_eq (b := b) (hullOver m (a ++ x :: b)) first before
  cases n with
  | zero => exact once
  | succ n =>
    rw [mergeSpan, once]
    exact mergeSpan_of_apart n ((hull.first_le.trans real).trans hull.le_last) farBefore farAfter

/-! ## A span handed to the line unit (R161, R163) -/

/-- The earliest span of a queue that `m` touches. -/
theorem exists_first_touched {m : Span} {q : List Span} (some : q.any m.touches = true) :
    ∃ a x b, q = a ++ x :: b ∧ m.touches x = true ∧ ∀ p ∈ a, m.touches p = false := by
  obtain ⟨x, found⟩ := Option.isSome_iff_exists.mp (List.find?_isSome.mpr (List.any_eq_true.mp some))
  obtain ⟨touches, a, b, e, before⟩ := List.find?_eq_some_iff_append.mp found
  exact ⟨a, x, b, e, touches, fun p mem => by simpa using before p mem⟩

section Handed

variable {l : LineUnit} {m : Span}

theorem LineUnit.handSpan_discarded (h : l.repaintAll = true ∨ ∃ next, l.repaint = some next ∧ next ≤ m.row) :
    l.handSpan m = l := by
  unfold LineUnit.handSpan
  obtain all | ⟨next, going, notYet⟩ := h
  · rw [if_pos all]
  · rw [going]
    simp only [if_pos notYet, ite_self]

theorem LineUnit.handSpan_enqueued (all : l.repaintAll = false)
    (reached : ∀ next, l.repaint = some next → m.row < next) : l.handSpan m = l.enqueue m := by
  unfold LineUnit.handSpan
  rw [if_neg (by rw [all]; decide)]
  split
  · next next going => rw [if_neg (Nat.not_le.mpr (reached next going))]
  · rfl

/-- What becomes of a span handed to the line unit: it is discarded, or it comes to the queue. -/
theorem LineUnit.handSpan_cases (l : LineUnit) (m : Span) :
    l.handSpan m = l ∨ l.repaintAll = false ∧ l.handSpan m = l.enqueue m := by
  by_cases discarded : l.repaintAll = true ∨ ∃ next, l.repaint = some next ∧ next ≤ m.row
  · exact .inl (LineUnit.handSpan_discarded discarded)
  · obtain ⟨all, reached⟩ := not_or.mp discarded
    have all : l.repaintAll = false := by simpa using all
    exact .inr ⟨all, LineUnit.handSpan_enqueued all fun next going =>
      Nat.lt_of_not_le fun notYet => reached ⟨next, going, notYet⟩⟩

/-- A span that touches no queued one joins the end of the queue, or with 16 spans queued the queue collapses. -/
theorem LineUnit.enqueue_apart (apart : ∀ q ∈ l.paintQueue, m.touches q = false) :
    l.enqueue m =
      if l.paintQueue.length < 16 then { l with paintQueue := l.paintQueue ++ [m] } else l.requestRepaint := by
  have none : ¬l.paintQueue.any m.touches = true := by
    rw [List.any_eq_true]
    rintro ⟨q, mem, touches⟩
    rw [apart q mem] at touches
    cases touches
  rw [LineUnit.enqueue, if_neg none]
  rfl

theorem LineUnit.enqueue_touching {q : Span} (mem : q ∈ l.paintQueue) (touches : m.touches q = true) :
    l.enqueue m = { l with paintQueue := mergeSpan l.paintQueue.length m l.paintQueue } := by
  rw [LineUnit.enqueue, if_pos (List.any_eq_true.mpr ⟨q, mem, touches⟩)]

end Handed

/-! ## The queue stays sound (R161, R162) -/

theorem Span.HullOf.onScreen {h s : Span} {ts : List Span} (hull : h.HullOf s ts) (real : s.OnScreen)
    (spans : ∀ p ∈ ts, p.OnScreen) : h.OnScreen := by
  obtain ⟨top, bottom, left, order, right⟩ := real
  have row := hull.row
  have first : 1 ≤ h.first := by
    obtain e | ⟨p, mem, e⟩ := hull.first
    · omega
    · obtain ⟨-, -, lo, -, -⟩ := spans p mem
      omega
  have last : h.last ≤ 80 := by
    obtain e | ⟨p, mem, e⟩ := hull.last
    · omega
    · obtain ⟨-, -, -, -, hi⟩ := spans p mem
      omega
  exact ⟨by omega, by omega, first, (hull.first_le.trans order).trans hull.le_last, last⟩

/-- A line unit whose queue is empty, with no repaint in progress while one is asked for. -/
theorem LineUnit.queueSound_of_empty {l : LineUnit} (empty : l.paintQueue = [])
    (asked : l.repaintAll = true → l.repaint = none) : l.QueueSound := by
  refine ⟨?_, ?_, ?_, fun all => ⟨empty, asked all⟩⟩
  · rw [empty]
    exact Nat.zero_le _
  · rw [empty]
    exact fun _ mem => nomatch mem
  · rw [empty]
    exact .nil

theorem LineUnit.queueSound_requestRepaint (l : LineUnit) : l.requestRepaint.QueueSound :=
  LineUnit.queueSound_of_empty rfl fun _ => rfl

theorem LineUnit.QueueSound.enqueue {l : LineUnit} (h : l.QueueSound) (all : l.repaintAll = false) {m : Span}
    (real : m.OnScreen) : (l.enqueue m).QueueSound := by
  obtain ⟨length, spans, apart, -⟩ := h
  have notAsked (q : List Span) : ({ l with paintQueue := q } : LineUnit).repaintAll = true →
      q = [] ∧ l.repaint = none := fun on => absurd (all.symm.trans on) (by decide)
  by_cases some : l.paintQueue.any m.touches = true
  · obtain ⟨a, x, b, e, touches, before⟩ := exists_first_touched some
    rw [LineUnit.enqueue_touching (e ▸ List.mem_append_right a List.mem_cons_self) touches]
    rw [e] at length spans apart ⊢
    obtain ⟨h, hull, merged, farBefore, farAfter⟩ := mergeSpan_eq (a ++ x :: b).length real.2.2.2.1
      (fun p mem => (spans p mem).2.2.2.1) apart touches before
    rw [merged]
    have kept : (a ++ b.filter fun p => !m.touches p).Sublist (a ++ x :: b) :=
      (List.Sublist.refl a).append ((List.filter_sublist).trans (List.sublist_cons_self x b))
    obtain ⟨beforeApart, afterApart, between⟩ := List.pairwise_append.mp (apart.sublist kept)
    refine ⟨?_, ?_, ?_, notAsked _⟩
    · have := kept.length_le
      simp only [List.length_append, List.length_cons] at this length ⊢
      have fewer := List.length_filter_le (fun p => !m.touches p) b
      omega
    · intro p mem
      obtain inBefore | rfl | inAfter := by simpa only [List.mem_append, List.mem_cons] using mem
      · exact spans p (kept.subset (List.mem_append_left _ inBefore))
      · exact hull.onScreen real fun q touched => spans q (List.mem_of_mem_filter touched)
      · exact spans p (kept.subset (List.mem_append_right _ inAfter))
    · refine List.pairwise_append.mpr ⟨beforeApart, List.pairwise_cons.mpr ⟨farAfter, afterApart⟩, ?_⟩
      intro p inBefore q mem
      obtain rfl | inAfter := List.mem_cons.mp mem
      · exact (Span.touches_comm p q).trans (farBefore p inBefore)
      · exact between p inBefore q inAfter
  · have away : ∀ q ∈ l.paintQueue, m.touches q = false := by simpa using some
    rw [LineUnit.enqueue_apart away]
    split
    · next room =>
      refine ⟨?_, ?_, ?_, notAsked _⟩
      · simp only [List.length_append, List.length_singleton]
        exact room
      · intro p mem
        obtain queued | rfl := by simpa only [List.mem_append, List.mem_singleton] using mem
        · exact spans p queued
        · exact real
      · refine List.pairwise_append.mpr ⟨apart, List.pairwise_singleton _ _, fun p mem q last => ?_⟩
        obtain rfl := List.mem_singleton.mp last
        exact (Span.touches_comm p q).trans (away p mem)
    · exact l.queueSound_requestRepaint

section Painting

variable {l : LineUnit} (h : l.QueueSound)
include h

theorem LineUnit.QueueSound.handSpan {m : Span} (real : m.OnScreen) : (l.handSpan m).QueueSound := by
  obtain e | ⟨all, e⟩ := l.handSpan_cases m
  · rw [e]
    exact h
  · rw [e]
    exact h.enqueue all real

theorem LineUnit.QueueSound.handSpans {ss : List Span} (real : ∀ m ∈ ss, m.OnScreen) :
    (ss.foldl LineUnit.handSpan l).QueueSound := by
  induction ss generalizing l with
  | nil => exact h
  | cons m ss ih =>
    exact ih (h.handSpan (real m List.mem_cons_self)) fun p mem => real p (List.mem_cons_of_mem m mem)

theorem LineUnit.QueueSound.askTone (t : Tone) : (l.askTone t).QueueSound := by
  unfold LineUnit.askTone
  split <;> exact h

theorem LineUnit.QueueSound.askTones (ts : List Tone) : (ts.foldl LineUnit.askTone l).QueueSound := by
  induction ts generalizing l with
  | nil => exact h
  | cons t ts ih => exact ih (h.askTone t)

/-- A span taken out of the queue leaves the others as they were. -/
theorem LineUnit.QueueSound.sublist {l' : LineUnit} (kept : l'.paintQueue.Sublist l.paintQueue)
    (all : l'.repaintAll = l.repaintAll) (repaint : l'.repaint = l.repaint) : l'.QueueSound := by
  obtain ⟨length, spans, apart, asked⟩ := h
  refine ⟨kept.length_le.trans length, fun p mem => spans p (kept.subset mem), apart.sublist kept, fun on => ?_⟩
  obtain ⟨empty, ended⟩ := asked (all ▸ on)
  exact ⟨List.sublist_nil.mp (empty ▸ kept), repaint.trans ended⟩

theorem LineUnit.QueueSound.startOther (img : Image) (p : Nat) : (l.startOther img p).QueueSound := by
  unfold LineUnit.startOther
  split
  · next all =>
    obtain ⟨-, -, -, asked⟩ := h
    exact LineUnit.queueSound_of_empty (asked all).1 fun on => nomatch on
  · split
    · exact h.sublist (List.erase_sublist) rfl rfl
    · split <;> exact h

theorem LineUnit.QueueSound.engine (img : Image) (p : Nat) : (l.engine img p).QueueSound := by
  unfold LineUnit.engine LineUnit.startNext
  split
  · split
    · exact h
    · split
      · next r going =>
        split
        · obtain ⟨length, spans, apart, asked⟩ := h
          refine ⟨length, spans, apart, fun all => ?_⟩
          have ended := (asked all).2
          rw [going] at ended
          cases ended
        · exact h.startOther img p
      · exact h.startOther img p
  · exact h

end Painting

/-- At the end of an event the queue is sound when it was sound in the event (R42, R161, R162). -/
theorem Act.finish_queueSound {a : Act} (h : a.station.line.QueueSound) (before : Image) :
    (a.finish before).line.QueueSound := by
  have painted : (if a.repaint then a.station.line.requestRepaint
      else (imageSpans 1 before (composeImage a.station)).foldl LineUnit.handSpan a.station.line).QueueSound := by
    split
    · exact a.station.line.queueSound_requestRepaint
    · exact h.handSpans fun m mem => onScreen_of_mem_imageSpans (composeImage_length a.station)
        (composeImage_row_length a.station) mem
  have handed : (a.handed before (composeImage a.station)).QueueSound := by
    unfold Act.handed
    dsimp only
    split
    · exact painted.askTones _
    · exact painted
  exact handed.engine _ _

theorem OrderMove.queueSound {l : Library} {i : StationId} {flags : BitVec 8} {st : Station} {a : Act}
    (move : OrderMove l i flags st a) (h : st.line.QueueSound) : a.station.line.QueueSound := by
  cases move with
  | wrote _ _ _ _ _ =>
    rw [Act.writeRest_eq]
    exact h
  | set c _ =>
    dsimp only
    split <;> exact h
  | resumed _ =>
    cases form : st.form with
    | some x =>
      rw [Act.resume_some form]
      exact h
    | none =>
      rw [Act.resume_none form]
      exact h
  | _ => exact h

theorem ActMove.queueSound {l : Library} {i : StationId} {flags : BitVec 8} {st : Station} {a : Act}
    (move : ActMove l i flags st a) (h : st.line.QueueSound) : a.station.line.QueueSound := by
  cases move with
  | @taken it x _ =>
    obtain keyed | ⟨-, -, refused⟩ | ⟨-, -, composed⟩ := Act.takeItem_cases l i it (Act.start st) x
    · exact keyed.line ▸ h
    · rw [Act.Refused] at refused
      rw [refused]
      exact h
    · exact composed.line ▸ h
  | silent _ => exact LineUnit.queueSound_of_empty rfl fun _ => rfl
  | sent _ =>
    rw [Act.transmitted_eq]
    obtain ⟨length, spans, apart, asked⟩ := h
    refine ⟨length, spans, apart, fun all => ⟨(asked all).1, ?_⟩⟩
    dsimp only
    rw [(asked all).2, ite_self]
  | expires _ => exact h
  | collected _ => exact h
  | ordered valid order applied => exact (order_cases valid order applied).queueSound h
  | partReset => exact h

/-- A line that comes UP makes the engine's first choice, which is a repaint (R159). -/
theorem Station.hear_queueSound {st : Station} (h : st.line.QueueSound) : st.hear.line.QueueSound := by
  have heard : st.line.hear.QueueSound := h
  unfold Station.hear
  dsimp only
  split
  · exact heard
  · exact heard.engine _ _

theorem LineMove.queueSound {st u : Station} (move : LineMove st u) (h : st.line.QueueSound) :
    u.line.QueueSound := by
  cases move with
  | read r => exact h
  | parity => exact h
  | framing => exact h
  | @accepted message _ =>
    obtain ⟨n, sc, line, -⟩ := (Act.arrived st message).line
    refine Act.finish_queueSound ?_ st.image
    rw [line]
    exact Station.hear_queueSound h

theorem StationMove.queueSound {l : Library} {i : StationId} {flags : BitVec 8} {st u : Station}
    (move : StationMove l i flags st u) (h : st.line.QueueSound) : u.line.QueueSound := by
  cases move with
  | stays => exact h
  | power => exact LineUnit.reset_sound.1
  | event move => exact Act.finish_queueSound (move.queueSound h) st.image
  | heard moves =>
    induction moves with
    | refl => exact h
    | tail _ move ih => exact move.queueSound ih

/-! ## The statement -/

/-- A merged span takes the place of the earliest it touches (R161 case 3). -/
theorem LineUnit.enqueue_merged {l : LineUnit} {m : Span} (real : m.first ≤ m.last)
    (spans : ∀ q ∈ l.paintQueue, q.first ≤ q.last) (apart : l.paintQueue.Pairwise fun p q => p.touches q = false)
    {a b : List Span} {q : Span} (queue : l.paintQueue = a ++ q :: b) (touches : m.touches q = true)
    (before : ∀ p ∈ a, m.touches p = false) :
    ∃ h : Span, h.HullOf m (l.paintQueue.filter m.touches) ∧
      l.enqueue m = { l with paintQueue := a ++ h :: b.filter fun p => !m.touches p } := by
  rw [queue] at spans apart
  obtain ⟨h, hull, merged, -⟩ := mergeSpan_eq l.paintQueue.length real spans apart touches before
  refine ⟨h, queue ▸ hull, ?_⟩
  rw [LineUnit.enqueue_touching (queue ▸ List.mem_append_right a List.mem_cons_self) touches, ← merged, queue]

/-- The spans of an event are, row by row, from the lowest changed column to the highest (R42). -/
theorem mem_imageSpans_iff {before after : Image} (rowsBefore : before.length = 24) (rowsAfter : after.length = 24)
    (columnsBefore : ∀ row ∈ before, row.length = 80) (columnsAfter : ∀ row ∈ after, row.length = 80) (p : Span) :
    p ∈ imageSpans 1 before after ↔
      p.OnScreen ∧ placeIn before p.row p.first ≠ placeIn after p.row p.first ∧
        placeIn before p.row p.last ≠ placeIn after p.row p.last ∧
        ∀ c, 1 ≤ c → c ≤ 80 → placeIn before p.row c ≠ placeIn after p.row c → p.first ≤ c ∧ c ≤ p.last := by
  by_cases row : 1 ≤ p.row ∧ p.row ≤ 24
  · obtain ⟨lo, hi⟩ := row
    have here : before[p.row - 1]? = some (before[p.row - 1]'(by omega)) := List.getElem?_eq_getElem _
    have there : after[p.row - 1]? = some (after[p.row - 1]'(by omega)) := List.getElem?_eq_getElem _
    generalize before[p.row - 1]'(by omega) = old at here
    generalize after[p.row - 1]'(by omega) = new at there
    have changed (c : Nat) : c ∈ changedColumns 1 old new ↔
        1 ≤ c ∧ c ≤ 80 ∧ placeIn before p.row c ≠ placeIn after p.row c := by
      rw [placeIn, placeIn, here, there, Option.bind_some, Option.bind_some]
      exact mem_changedColumns_row (columnsBefore old (List.mem_of_getElem? here))
        (columnsAfter new (List.mem_of_getElem? there))
    rw [mem_imageSpans]
    simp only [here, there, Option.some.injEq, exists_and_left, exists_eq_left', rowSpan_eq_some, changed, true_and]
    constructor
    · rintro ⟨-, ⟨first1, first80, first⟩, ⟨last1, last80, last⟩, bounds⟩
      exact ⟨⟨lo, hi, first1, (bounds _ ⟨last1, last80, last⟩).1, last80⟩, first, last,
        fun c c1 c80 change => bounds c ⟨c1, c80, change⟩⟩
    · rintro ⟨⟨-, -, first1, order, last80⟩, first, last, bounds⟩
      exact ⟨lo, ⟨first1, order.trans last80, first⟩, ⟨first1.trans order, last80, last⟩,
        fun c ⟨c1, c80, change⟩ => bounds c c1 c80 change⟩
  · constructor
    · intro mem
      obtain ⟨lo, hi, -⟩ := onScreen_of_mem_imageSpans rowsAfter columnsAfter mem
      exact absurd ⟨lo, hi⟩ row
    · rintro ⟨⟨lo, hi, -⟩, -⟩
      exact absurd ⟨lo, hi⟩ row

theorem LineUnit.askTone_eq (l : LineUnit) (t : Tone) :
    l.askTone t =
      if l.up = false then l
      else { l with tone := some (match l.tone with | some .long => .long | some .short => t | none => t) } := by
  unfold LineUnit.askTone
  cases l.up with
  | false => rfl
  | true =>
    cases l.tone with
    | none => rfl
    | some tone => cases tone <;> rfl

/-- Settles O8: a queue stays sound through every event (`StationMove.queueSound`); a span is discarded, merged
(`LineUnit.enqueue_merged`) or queued (`LineUnit.enqueue_apart`). -/
theorem stepKeepsPaintQueues : Obligations.StepKeepsPaintQueues := by
  refine ⟨fun _ _ h stepped i => (step_station stepped i).queueSound (h i), Span.touches_iff, fun l m => ⟨?_, ?_, ?_⟩,
    fun a before => rfl, fun before after rowsBefore rowsAfter columnsBefore columnsAfter => ?_,
    LineUnit.askTone_eq⟩
  · exact fun all => LineUnit.handSpan_discarded (.inl all)
  · exact fun next going notYet => LineUnit.handSpan_discarded (.inr ⟨next, going, notYet⟩)
  · intro all reached
    rw [LineUnit.handSpan_enqueued all reached]
    refine ⟨LineUnit.enqueue_apart, fun real spans apart a q b queue touches before => ?_⟩
    obtain ⟨h, hull, merged⟩ := LineUnit.enqueue_merged real spans apart queue touches before
    have member (p : Span) : p ∈ l.paintQueue.filter m.touches ↔ p ∈ l.paintQueue ∧ m.touches p = true :=
      List.mem_filter
    refine ⟨h, merged, hull.row, hull.first_le, hull.le_last,
      fun p mem touched => hull.covers p ((member p).mpr ⟨mem, touched⟩), hull.first.imp_right ?_,
      hull.last.imp_right ?_⟩
    all_goals
      rintro ⟨p, mem, e⟩
      obtain ⟨queued, touched⟩ := (member p).mp mem
      exact ⟨p, queued, touched, e⟩
  · exact ⟨imageSpans_sorted before after 1, mem_imageSpans_iff rowsBefore rowsAfter columnsBefore columnsAfter⟩

end Sys2Proof.Machine
end

section
/-! The paint engine (R154, R164 to R167): what a PAINT carries, and the end of a downstream message. -/

namespace Sys2Proof.Machine

/-! ## The content of a PAINT (R154, R165) -/

/-- The runs of a text, written out, are the renditions of its places. -/
theorem runsOf_renditions (ps : List Place) :
    ((runsOf ps).flatMap fun r => List.replicate r.2 r.1) = ps.map Place.rend := by
  induction ps with
  | nil => rfl
  | cons p ps ih =>
    rw [List.map_cons, ← ih, runsOf]
    split
    · split
      · next same => simp_all [List.replicate_succ]
      · simp_all
    · simp_all

theorem runsOf_pos (ps : List Place) : ∀ r ∈ runsOf ps, 1 ≤ r.2 := by
  induction ps with
  | nil => exact fun _ mem => nomatch mem
  | cons p ps ih =>
    rw [runsOf]
    split
    · next r n rest runs =>
      rw [runs] at ih
      split
      · intro q mem
        obtain rfl | mem := List.mem_cons.mp mem
        · exact Nat.succ_pos n
        · exact ih q (List.mem_cons_of_mem _ mem)
      · intro q mem
        obtain rfl | mem := List.mem_cons.mp mem
        · exact le_rfl
        · exact ih q mem
    · intro q mem
      obtain rfl := List.mem_singleton.mp mem
      exact le_rfl

/-- No two neighbouring runs are of one rendition, so the runs are the fewest (R154). -/
theorem runsOf_chain (ps : List Place) : (runsOf ps).IsChain fun q r => q.1 ≠ r.1 := by
  induction ps with
  | nil => exact .nil
  | cons p ps ih =>
    rw [runsOf]
    split
    · next r n rest runs =>
      rw [runs] at ih
      split
      · cases rest with
        | nil => exact .singleton _
        | cons q rest =>
          obtain ⟨differ, chain⟩ := List.isChain_cons_cons.mp ih
          exact List.isChain_cons_cons.mpr ⟨differ, chain⟩
      · next differ => exact List.isChain_cons_cons.mpr ⟨differ, ih⟩
    · exact .singleton _

/-- The places of a span that lies on an image (R165). -/
theorem placesOf_getElem? {img : Image} {p : Span} {row : List Place} (there : img[p.row - 1]? = some row) {k : Nat}
    (inside : k < p.last + 1 - p.first) : (placesOf img p)[k]? = row[p.first - 1 + k]? := by
  rw [placesOf, List.getD_eq_getElem?_getD, there, Option.getD_some, List.getElem?_take_of_lt inside,
    List.getElem?_drop]

theorem placesOf_length {img : Image} {p : Span} {row : List Place} (there : img[p.row - 1]? = some row)
    (width : row.length = 80) (real : p.OnScreen) : (placesOf img p).length = p.last + 1 - p.first := by
  obtain ⟨-, -, lo, order, hi⟩ := real
  rw [placesOf, List.getD_eq_getElem?_getD, there, Option.getD_some, List.length_take, List.length_drop, width]
  omega

/-- What a PAINT carries of its span: the characters of the image there, and as its runs the renditions (R154, R165). -/
theorem paintOf_content {img : Image} {p : Span} (rows : img.length = 24) (columns : ∀ row ∈ img, row.length = 80)
    (real : p.OnScreen) :
    ∃ text runs, paintOf img p = .paint p.row p.first text runs ∧ text.length = p.last + 1 - p.first ∧
      (∀ k, k < text.length → ∃ row place, img[p.row - 1]? = some row ∧ row[p.first - 1 + k]? = some place ∧
        text[k]? = some place.char ∧
          (runs.flatMap fun r : Rendition × Nat => List.replicate r.2 r.1)[k]? = some place.rend) ∧
      (runs.map Prod.snd).sum = text.length ∧ (∀ r ∈ runs, 1 ≤ r.2) ∧
      ∀ a q r b, runs = a ++ q :: r :: b → q.1 ≠ r.1 := by
  obtain ⟨top, bottom, -⟩ := id real
  have there : img[p.row - 1]? = some (img[p.row - 1]'(by omega)) := List.getElem?_eq_getElem _
  generalize img[p.row - 1]'(by omega) = row at there
  have length := placesOf_length there (columns row (List.mem_of_getElem? there)) real
  refine ⟨_, _, rfl, by rw [List.length_map, length], fun k inside => ?_, ?_, runsOf_pos _, fun a q r b split => ?_⟩
  · rw [List.length_map] at inside
    have here := placesOf_getElem? there (length ▸ inside)
    have place := List.getElem?_eq_getElem inside
    refine ⟨row, _, there, here.symm.trans place, ?_, ?_⟩
    · rw [List.getElem?_map, place, Option.map_some]
    · rw [runsOf_renditions, List.getElem?_map, place, Option.map_some]
  · have total := congrArg List.length (runsOf_renditions (placesOf img p))
    simpa [List.length_flatMap, Function.comp_def] using total
  · have chain := runsOf_chain (placesOf img p)
    rw [split, List.isChain_append_cons_cons] at chain
    exact chain.2.1

/-! ## The choice of the next message (R164) -/

theorem Station.cursorShown_active {st : Station} {x : FormInstance} (active : st.state = .active)
    (form : st.form = some x) : st.cursorShown = x.cursor := by
  simp only [Station.cursorShown, active, form]

theorem Station.cursorShown_inactive {st : Station} (inactive : st.state ≠ .active) : st.cursorShown = 0 := by
  unfold Station.cursorShown
  split
  · next active _ => exact absurd active inactive
  · rfl

/-- What the engine starts on an idle line, by the first order of R164 that applies. -/
def LineUnit.Starts (l : LineUnit) (img : Image) (cursor : Nat) (l' : LineUnit) : Prop :=
  (∀ tone, l.tone = some tone → l' = { l with tone := none, inFlight := some (.tone tone) }) ∧
    (∀ r, l.tone = none → l.repaint = some r → r ≤ 24 →
      l' = { l with repaint := some (r + 1), inFlight := some (paintOf img (wholeRow r)) }) ∧
    (l.tone = none → l.repaint = none →
      (l.repaintAll = true →
        l' = { l with repaintAll := false, repaint := some 1, inFlight := some .erase, lastCursor := some 0 }) ∧
      (l.repaintAll = false →
        (∀ a p b, l.paintQueue = a ++ p :: b → p.row = 24 → (∀ q ∈ a, q.row ≠ 24) →
          l' = { l with paintQueue := a ++ b, inFlight := some (paintOf img p) }) ∧
        (∀ p b, l.paintQueue = p :: b → (∀ q ∈ l.paintQueue, q.row ≠ 24) →
          l' = { l with paintQueue := b, inFlight := some (paintOf img p) }) ∧
        (l.paintQueue = [] →
          l' = if l.lastCursor = some cursor then l
            else
              { l with
                lastCursor := some cursor, inFlight := some (.cursor (cursor / 80 + 1) (cursor % 80 + 1)) })))

/-- The earliest queued span of row 24 is sent first (R164 order 4). -/
theorem nextSpan_status {a b : List Span} {p : Span} (row : p.row = 24) (before : ∀ q ∈ a, q.row ≠ 24) :
    nextSpan (a ++ p :: b) = some p := by
  have none : a.find? (fun q => q.row == 24) = none := List.find?_eq_none.mpr fun q mem => by simpa using before q mem
  simp [nextSpan, none, row]

/-- Else the span at the head of the queue (R164 order 5). -/
theorem nextSpan_head {p : Span} {b : List Span} (none : ∀ q ∈ p :: b, q.row ≠ 24) : nextSpan (p :: b) = some p := by
  rw [nextSpan, List.find?_eq_none.mpr fun q mem => by simpa using none q mem]
  rfl

/-- On a line with neither a tone nor a row of a repaint to send. -/
theorem LineUnit.startOther_queued {l : LineUnit} (all : l.repaintAll = false) {p : Span} {q : List Span}
    (next : nextSpan l.paintQueue = some p) (rest : l.paintQueue.erase p = q) (img : Image) (cursor : Nat) :
    l.startOther img cursor = { l with paintQueue := q, inFlight := some (paintOf img p) } := by
  rw [LineUnit.startOther, if_neg (by rw [all]; decide)]
  simp only [next, rest]

theorem LineUnit.engine_starts {l : LineUnit} (up : l.up = true) (idle : l.inFlight = none) (img : Image)
    (cursor : Nat) : l.Starts img cursor (l.engine img cursor) := by
  have chooses : l.engine img cursor = l.startNext img cursor := by
    rw [LineUnit.engine, up, idle]
    rfl
  rw [chooses]
  refine ⟨fun tone pending => ?_, fun r quiet going rows => ?_, fun quiet ended => ?_⟩
  · simp only [LineUnit.startNext, pending]
  · simp only [LineUnit.startNext, quiet, going, if_pos rows]
  · have other : l.startNext img cursor = l.startOther img cursor := by simp only [LineUnit.startNext, quiet, ended]
    rw [other]
    refine ⟨fun all => by rw [LineUnit.startOther, if_pos all], fun all => ⟨?_, ?_, ?_⟩⟩
    · intro a p b queue row before
      have absent : p ∉ a := fun mem => before p mem row
      exact LineUnit.startOther_queued all (queue ▸ nextSpan_status row before)
        (by rw [queue, List.erase_append_right _ absent, List.erase_cons_head]) img cursor
    · intro p b queue none
      exact LineUnit.startOther_queued all (queue ▸ nextSpan_head (queue ▸ none))
        (by rw [queue, List.erase_cons_head]) img cursor
    · intro empty
      rw [LineUnit.startOther, if_neg (by rw [all]; decide), empty]
      rfl

theorem LineUnit.engine_waits {l : LineUnit} (h : l.up = false ∨ l.inFlight.isSome = true) (img : Image)
    (cursor : Nat) : l.engine img cursor = l := by
  rw [LineUnit.engine, if_neg]
  obtain down | busy := h
  · simp [down]
  · simp [Option.isNone_eq_false_iff.mpr busy]

/-! ## The end of a transmission (R154, R164, R166) -/

theorem imageSpans_self (img : Image) (r : Nat) : imageSpans r img img = [] := by
  refine List.eq_nil_iff_forall_not_mem.mpr fun s mem => ?_
  obtain ⟨-, a, b, here, there, found⟩ := mem_imageSpans.mp mem
  obtain ⟨-, first, -⟩ := rowSpan_eq_some.mp found
  obtain ⟨-, p, q, old, new, differ⟩ := mem_changedColumns.mp first
  rw [here, Option.some.injEq] at there
  rw [there, new, Option.some.injEq] at old
  exact differ old.symm

/-- An event that changes nothing on the screen and asks for nothing leaves the engine's choice alone. -/
theorem Act.finish_of_same {a : Act} {before : Image} (repaint : a.repaint = false) (tones : a.tones = [])
    (same : composeImage a.station = before) :
    a.finish before =
      { a.station with image := before, line := a.station.line.engine before a.station.cursorShown } := by
  have handed : a.handed before before = a.station.line := by
    simp [Act.handed, repaint, tones, imageSpans_self]
  rw [Act.finish, same, handed]

/-- Settling is no part of what the image and the cursor show. -/
theorem Station.settle_shows (st : Station) (up : Bool) :
    composeImage { st with form := st.form.map fun x => x.settle up } = composeImage st ∧
      ({ st with form := st.form.map fun x => x.settle up } : Station).cursorShown = st.cursorShown := by
  unfold composeImage Station.cursorShown
  cases st.state <;> cases st.form <;> exact ⟨rfl, rfl⟩

/-- The repaint has sent row 24 exactly when its next row would be 25 (R163, R166). -/
theorem LineUnit.repaintDone_iff {l : LineUnit} (rows : ∀ r, l.repaint = some r → r ≤ 25) :
    l.repaintDone = true ↔ l.repaint = some 25 := by
  unfold LineUnit.repaintDone
  cases going : l.repaint with
  | none => simp
  | some r =>
    have last := rows r going
    simp only [Option.any_some, decide_eq_true_eq, Option.some.injEq]
    omega

/-- The line unit whose message has left flight, the repaint over after row 24 (R166). -/
def LineUnit.landed (l : LineUnit) : LineUnit :=
  { l with inFlight := none, repaint := if l.repaint = some 25 then none else l.repaint }

/-- The instance after the end of a transmission: settling cleared by the report of a repaint (R166). -/
def Station.reported (st : Station) : Option FormInstance :=
  if st.line.repaint = some 25 then st.form.map fun x => { x with settling := false } else st.form

/-- The end of a transmission leaves a pictured station its image, its message landed, and the engine's choice made
(R154, R164, R166). -/
theorem Act.transmitted_finish {st : Station} (pictured : st.Pictured)
    (rows : ∀ r, st.line.repaint = some r → r ≤ 25) :
    (Act.start st).transmitted.finish st.image =
      { st with form := st.reported, line := st.line.landed.engine st.image st.cursorShown } := by
  have made : (Act.start st).transmitted =
      ⟨{ st with line := st.line.landed, form := st.reported }, [], false, []⟩ := by
    rw [Act.transmitted_eq]
    simp only [LineUnit.repaintDone_iff rows]
    rfl
  have shows : composeImage { st with line := st.line.landed, form := st.reported } = composeImage st ∧
      ({ st with line := st.line.landed, form := st.reported } : Station).cursorShown = st.cursorShown := by
    unfold Station.reported
    split
    · exact Station.settle_shows { st with line := st.line.landed } false
    · exact ⟨rfl, rfl⟩
  rw [made, Act.finish_of_same rfl rfl (shows.1.trans pictured.symm), shows.2]

theorem exec_transmissionComplete {i : StationId} {s : State} (busy : (s.station i).line.inFlight.isSome = true) :
    exec (.transmissionComplete i) s = (s.event i Act.transmitted).done := by
  show (if _ then _ else _) = _
  rw [if_pos busy]

/-- Settles O46: the end of a transmission (`Act.transmitted_finish`), what the engine starts (`LineUnit.engine_starts`)
and what a PAINT carries (`paintOf_content`). -/
theorem transmissionCompleteSendsTheNext : Obligations.TransmissionCompleteSendsTheNext := by
  refine ⟨fun img p => paintOf_content, fun r => rfl,
    fun st => ⟨fun x => Station.cursorShown_active, Station.cursorShown_inactive⟩, fun l img cursor =>
      ⟨fun h => LineUnit.engine_waits h img cursor, fun up idle => LineUnit.engine_starts up idle img cursor⟩,
    fun i s busy up pictured rows => ?_⟩
  have there := (State.event_station_self s i Act.transmitted).trans (Act.transmitted_finish pictured rows)
  have quiet : (Act.start (s.station i)).transmitted.raised = [] := by rw [Act.transmitted_eq]
  refine ⟨_, exec_transmissionComplete busy, s.event_othersKept i Act.transmitted _,
    congrArg EventUnit.drive (s.event_events_quiet i Act.transmitted quiet), ?_, ?_, ?_⟩
  · show (s.station i).LineKept ((s.event i Act.transmitted).station i)
    rw [there]
    simp [Station.LineKept, LineUnit.landed]
  · show ((s.event i Act.transmitted).station i).composer = _
    rw [there]
    rfl
  · have started := LineUnit.engine_starts (l := (s.station i).line.landed) up rfl (s.station i).image
      (s.station i).cursorShown
    have line : ((s.event i Act.transmitted).station i).line =
        (s.station i).line.landed.engine (s.station i).image (s.station i).cursorShown := congrArg Station.line there
    rw [← line] at started
    exact started

end Sys2Proof.Machine
end

section
/-! Orders to stations as commands (R134 to R136, R173): what an order leaves of the part, and the statements on SHOW,
WRITE, PAGE, STATION RESET, SUSPEND and RESUME. -/

namespace Sys2Proof.Machine

/-! ## An order that is served -/

/-- A station order in its ranges, of a station set that is not empty, is carried out (R173). -/
theorem earlyRefusal_eq_none {r : Request} {set : StationSet} (stations : stationsOf r = some set) (some : set ≠ 0#8)
    (fits : overLength r = false) : earlyRefusal r = none := by
  have other : stationsOf r ≠ .some 0#8 := by
    rw [stations]
    exact fun e => some (Option.some.inj e)
  rw [earlyRefusal, if_neg other, if_neg (by rw [fits]; decide)]

section Orders

variable {s t : State} {tag kind : Byte} {set : StationSet} {f : StationId → BitVec 8 → Act → OrderResult}

/-- What an order leaves of the part, its outcomes given station by station (R134). -/
theorem State.ordered_of_orders {out : StationId → StationOutcome} (outcome : ∀ i, (s.resultAt f i).outcome = out i)
    (stations : ∀ j, t.station j = (s.countIn.orders f (members set)).1.station j) (library : t.library = s.library)
    (pending : t.pending = s.pending)
    (host : t.host = s.host.answered tag (.accept (.outcomes kind (s.countIn.orders f (members set)).2))) :
    s.Ordered t tag kind set out := by
  have left (j : StationId) : t.station j =
      if j ∈ members set then (s.resultAt f j).leaves (s.station j) else s.station j :=
    (stations j).trans (State.orders_station f (members set) s.countIn (members_nodup set) j)
  refine ⟨fun j outside => ?_, fun j c refused => ?_, library, pending, ?_⟩
  · rw [left, if_neg]
    rw [mem_members, outside]
    decide
  · have kept : (s.resultAt f j).leaves (s.station j) = s.station j := by
      rw [← outcome] at refused
      cases result : s.resultAt f j with
      | refused c => rfl
      | applied a late sk cut =>
        rw [result] at refused
        cases refused
    rw [left, kept, ite_self]
  · rw [host, State.orders_outcomes f (members set) s.countIn (members_nodup set)]
    have same : ((members set).map fun i => (i, (s.countIn.resultAt f i).outcome)) =
        (members set).map fun i => (i, out i) := by
      simp only [← outcome]
      rfl
    rw [same]

/-- What an applied order leaves of a station of its set: the station of its event, and the line's own fields (R135). -/
theorem State.left_of_orders (stations : ∀ j, t.station j = (s.countIn.orders f (members set)).1.station j)
    {i : StationId} (mem : set.getLsbD i.val = true) {after : Station} {tones : List Tone} {repaint late : Bool}
    {raised : List StationEvent} {sk : List (Nat × SkipReason)} {cut : List Nat}
    (applied : s.resultAt f i = .applied ⟨after, tones, repaint, raised⟩ late sk cut) :
    s.Left t i after repaint tones ∧ after.LineKept (t.station i) := by
  have here : t.station i = (⟨after, tones, repaint, []⟩ : Act).finish (s.station i).image := by
    have left := State.orders_station f (members set) s.countIn (members_nodup set) i
    have result : s.countIn.resultAt f i = .applied ⟨after, tones, repaint, raised⟩ late sk cut := applied
    rw [if_pos ((mem_members set i).mpr mem), result] at left
    exact (stations i).trans left
  exact ⟨⟨by rw [here]; rfl, here⟩, here ▸ Act.finish_lineKept _ _⟩

/-- A station order that raises nothing: its outcomes, and at each station of its set what its event leaves (R134,
R135). -/
theorem State.serveOrder_done (s : State) (tag kind : Byte) (set : StationSet)
    (f : StationId → BitVec 8 → Act → OrderResult) {out : StationId → StationOutcome}
    (outcome : ∀ i, (s.resultAt f i).outcome = out i) (quiet : ∀ i fl st, (f i fl (Act.start st)).raises = []) :
    ∃ t, (s.countIn.serveOrder tag kind set f).done = .next t ∧ s.EventsQuiet t ∧ s.Ordered t tag kind set out ∧
      ∀ j, t.station j = (s.countIn.orders f (members set)).1.station j := by
  refine ⟨_, rfl, ?_, State.ordered_of_orders outcome (fun _ => rfl) ?_ ?_ ?_, fun _ => rfl⟩
  · exact congrArg EventUnit.drive (State.orders_events_quiet f (members set) s.countIn quiet)
  · exact State.orders_library f (members set) s.countIn
  · exact State.orders_pending f (members set) s.countIn
  · exact congrArg (fun h : HostLine => h.send _) (State.orders_host f (members set) s.countIn)

end Orders

/-- An order that needs an instance, at a station that holds one (R136). -/
theorem withForm_some {st : Station} {x : FormInstance} (holds : st.state ≠ .noForm) (form : st.form = some x)
    (k : FormInstance → OrderResult) : withForm (Act.start st) k = k x := by
  unfold withForm
  split
  · next state => exact absurd state holds
  · next empty _ =>
    rw [Act.start_station, form] at empty
    cases empty
  · next y here _ =>
    rw [Act.start_station, form] at here
    cases here
    rfl

/-- The same at a station that holds none. -/
theorem withForm_none {st : Station} (empty : st.state = .noForm ∨ st.form = none) (k : FormInstance → OrderResult) :
    withForm (Act.start st) k = .refused .noForm := by
  unfold withForm
  split
  · rfl
  · rfl
  · next x form state =>
    obtain none | none := empty
    · exact absurd none fun e => state e
    · rw [Act.start_station, none] at form
      cases form

theorem withForm_raises {st : Station} {k : FormInstance → OrderResult} (quiet : ∀ x, (k x).raises = []) :
    (withForm (Act.start st) k).raises = [] := by
  unfold withForm
  split
  · rfl
  · rfl
  · exact quiet _

/-- The outcome of an order that needs an instance (R136). -/
theorem withForm_outcome (st : Station) {k : FormInstance → OrderResult} {out : FormInstance → StationOutcome}
    (outcome : ∀ x, (k x).outcome = out x) :
    (withForm (Act.start st) k).outcome =
      match st.state, st.form with
      | .noForm, _ => .refused .noForm
      | _, none => .refused .noForm
      | _, some x => out x := by
  cases form : st.form with
  | none =>
    rw [withForm_none (.inr form)]
    cases st.state <;> rfl
  | some x =>
    by_cases empty : st.state = .noForm
    · rw [withForm_none (.inl empty), empty]
      rfl
    · rw [withForm_some empty form, outcome]
      cases state : st.state with
      | noForm => exact absurd state empty
      | active => rfl
      | suspended => rfl

/-! ## PAGE (R149) -/

/-- PAGE turns the instance as a host order does, and asks the repaint in ACTIVE alone (R146, R149). -/
theorem pageOrder_some {st : Station} {x : FormInstance} {p : Nat} (holds : st.state ≠ .noForm)
    (form : st.form = some x) (page : p ≤ x.defn.pages) :
    pageOrder p (Act.start st) =
      .plain ⟨{ st with form := some (st.turned (some p) x) }, [], decide (st.state = .active), []⟩ := by
  rw [pageOrder, withForm_some holds form, if_neg (Nat.not_lt.mpr page)]
  by_cases active : st.state = .active
  · simp [Act.askRepaintIfActive, Act.hostTurn, Station.turned, active, Act.putForm, Act.askRepaint, Act.start]
  · simp [Act.askRepaintIfActive, Act.hostTurn, Station.turned, active, Act.putForm, Act.start]

theorem pageOrder_outcome (st : Station) (p : Nat) :
    (pageOrder p (Act.start st)).outcome =
      match st.state, st.form with
      | .noForm, _ => .refused .noForm
      | _, none => .refused .noForm
      | _, some x => if x.defn.pages < p then .refused .badPage else plainOutcome := by
  refine withForm_outcome st fun x => ?_
  split <;> rfl

theorem pageOrder_raises (st : Station) (p : Nat) : (pageOrder p (Act.start st)).raises = [] := by
  refine withForm_raises fun x => ?_
  split
  · rfl
  · unfold Act.askRepaintIfActive
    split <;> rfl

/-- A page switch by a host order, field by field (R43, R44, R146). -/
theorem Station.turned_page (st : Station) (p : Nat) (x : FormInstance) :
    st.turned (some p) x =
      { x with
        page := p
        visited := x.visited ||| BitVec.twoPow 4 (p - 1)
        cursor := firstStart (x.inputsOn p)
        settling := if st.state = .active then st.line.up else x.settling } := by
  unfold Station.turned
  dsimp only
  split <;> rfl

theorem exec_page {s : State} {set : StationSet} {p : Nat} (tag : Byte) (some : set ≠ 0#8) (lo : 1 ≤ p) (hi : p ≤ 255)
    (room : s.host.outstanding < 4) :
    exec (.page tag set p) s = (s.countIn.serveOrder tag 0x15#8 set fun _ _ => pageOrder p).done :=
  congrArg State.done (State.request_served tag room (r := .page set p) (by simp [requestValid, inRange, lo, hi])
    (by simp [requestBytes]) (earlyRefusal_eq_none rfl some rfl))

/-- Settles O30: PAGE is an order that needs an instance (`pageOrder_some`), carried out at the stations of its set. -/
theorem pageTurnsTheInstance : Obligations.PageTurnsTheInstance := by
  intro tag set p s some lo hi room
  obtain ⟨t, run, quiet, ordered, stations⟩ := s.serveOrder_done tag 0x15#8 set (fun _ _ => pageOrder p)
    (fun i => pageOrder_outcome (s.station i) p) fun _ _ st => pageOrder_raises st p
  refine ⟨t, (exec_page tag some lo hi room).trans run, quiet, ordered, fun i x mem holds form page => ?_⟩
  rw [← Station.turned_page]
  exact State.left_of_orders stations mem (pageOrder_some holds form page)

end Sys2Proof.Machine
end

section
/-! SHOW and WRITE as commands (R36, R136 to R139). -/

namespace Sys2Proof.Machine

/-! ## WRITE (R136 to R139) -/

theorem writeOrder_some {st : Station} {x : FormInstance} {w : WriteOrder} (holds : st.state ≠ .noForm)
    (form : st.form = some x) (page : w.page.getD 0 ≤ x.defn.pages) (cursor : badCursor w x = false) :
    writeOrder w (Act.start st) =
      .applied
        ⟨{ st with
            form := some (st.written w (writeFields w st.settings.policy st.keyboard x).form)
            keyboard := if w.restore = true then .free else st.keyboard
            timer := if w.restore = true then none else st.timer },
          if st.state = .active then w.tone.toList else [], w.page.isSome && decide (st.state = .active), []⟩
        (w.restore && st.keyboard == .timedOut)
        (writeFields w st.settings.policy st.keyboard x).skipped
        (writeFields w st.settings.policy st.keyboard x).cut := by
  have shown : ¬(w.page.any fun p => decide (x.defn.pages < p)) = true := by
    cases named : w.page with
    | none => simp
    | some p => simpa [named] using page
  rw [writeOrder, withForm_some holds form, if_neg shown, if_neg (by rw [cursor]; decide), ← Act.writeRest_eq]
  rfl

/-- The outcome of a WRITE (R134, R136, R138). -/
theorem writeOrder_outcome (st : Station) (w : WriteOrder) :
    (writeOrder w (Act.start st)).outcome =
      match st.state, st.form with
      | .noForm, _ => .refused .noForm
      | _, none => .refused .noForm
      | _, some x =>
        if x.defn.pages < w.page.getD 0 then .refused .badPage
        else if badCursor w x = true then .refused .badField
        else
          .applied (w.restore && st.keyboard == .timedOut)
            (writeFields w st.settings.policy st.keyboard x).skipped
            (writeFields w st.settings.policy st.keyboard x).cut := by
  refine withForm_outcome st fun x => ?_
  have shown : (w.page.any fun p => decide (x.defn.pages < p)) = true ↔ x.defn.pages < w.page.getD 0 := by
    cases w.page <;> simp
  simp only [shown]
  split
  · rfl
  · split <;> rfl

theorem writeOrder_raises (st : Station) (w : WriteOrder) : (writeOrder w (Act.start st)).raises = [] := by
  refine withForm_raises fun x => ?_
  split
  · rfl
  · split
    · rfl
    · show ((Act.start st).writeRest w _).raised = []
      rw [Act.writeRest_eq]

/-- BADFIELD: the CURSOR option names no field of the page that will be shown (R138). -/
theorem badCursor_iff (w : WriteOrder) (x : FormInstance) :
    badCursor w x = true ↔
      ∃ n off, w.cursor = some (n, off) ∧ ∀ f, x.field? n = some f → f.defn.page ≠ w.page.getD x.page := by
  unfold badCursor pageAfter
  cases w.cursor with
  | none => simp
  | some c =>
    obtain ⟨n, off⟩ := c
    cases found : x.field? n <;> simp [found]

theorem exec_write {s : State} {set : StationSet} {w : WriteOrder} (tag : Byte) (some : set ≠ 0#8)
    (valid : writeValid w = true) (early : overLength (.write set w) = false)
    (fits : (requestBytes (.write set w)).length ≤ 1024) (room : s.host.outstanding < 4) :
    exec (.write tag set w) s = (s.countIn.serveOrder tag 0x11#8 set fun _ _ => writeOrder w).done :=
  congrArg State.done
    (State.request_served tag room (r := .write set w) valid fits (earlyRefusal_eq_none rfl some early))

/-- Settles O27: WRITE is an order that needs an instance, whose event is written out in `writeOrder_some`. -/
theorem writeChangesTheInstance : Obligations.WriteChangesTheInstance := by
  refine ⟨fun tag set w s some valid early fits room => ?_, fun x p up => ⟨rfl, rfl⟩, badCursor_iff,
    fun x => ⟨rfl, fun n off f found => ?_⟩⟩
  · obtain ⟨t, run, quiet, ordered, stations⟩ := s.serveOrder_done tag 0x11#8 set (fun _ _ => writeOrder w)
      (fun i => writeOrder_outcome (s.station i) w) fun _ _ st => writeOrder_raises st w
    refine ⟨t, (exec_write tag some valid early fits room).trans run, quiet, ordered,
      fun i x mem holds form page cursor => ?_⟩
    have left := State.left_of_orders stations mem (writeOrder_some holds form page cursor)
    rw [Station.written, writeFields_insert] at left
    exact left
  · simp only [FormInstance.writeCursor, found]
    rfl

/-! ## SHOW (R36, R136, R137) -/

/-- What running rules may change of a field record: its result and its content, and those of the field that a rule
targets alone (R88, R98). -/
def FieldRec.RanTo (rules : List Rule) (f g : FieldRec) : Prop :=
  g = { f with content := g.content, result := g.result } ∧ ((∀ r ∈ rules, r.target ≠ f.defn.number) → g = f)

theorem FieldRec.RanTo.trans {rules : List Rule} {f g h : FieldRec} (first : f.RanTo rules g)
    (second : g.RanTo rules h) : f.RanTo rules h := by
  obtain ⟨fg, fgSame⟩ := first
  obtain ⟨gh, ghSame⟩ := second
  have defn : g.defn = f.defn := by rw [fg]
  refine ⟨?_, fun untargeted => ?_⟩
  · rw [gh, fg]
  · rw [ghSame (by rw [defn]; exact untargeted), fgSame untargeted]

/-- Running rules makes each record from one that stood there, and leaves the definitions (R88, R98). -/
theorem FormInstance.runRules_fields (ns : List Nat) (x : FormInstance) :
    (x.runRules ns).fields.map FieldRec.defn = x.fields.map FieldRec.defn ∧
      ∀ g ∈ (x.runRules ns).fields, ∃ f ∈ x.fields, f.RanTo x.defn.rules g := by
  induction ns generalizing x with
  | nil => exact ⟨rfl, fun g mem => ⟨g, mem, rfl, fun _ => rfl⟩⟩
  | cons n ns ih =>
    unfold FormInstance.runRules
    split
    · next r found =>
      obtain ⟨defns, ran⟩ := ih (x.runRule r)
      rw [FormInstance.runRule_defn] at ran
      constructor
      · rw [defns, FormInstance.runRule, FormInstance.modField_fields, List.map_map]
        refine List.map_congr_left fun f _ => ?_
        simp only [Function.comp_apply]
        split <;> rfl
      · intro h mem
        obtain ⟨g, once, second⟩ := ran h mem
        rw [FormInstance.runRule, FormInstance.modField_fields] at once
        obtain ⟨f, there, rfl⟩ := List.mem_map.mp once
        refine ⟨f, there, FieldRec.RanTo.trans ?_ second⟩
        split
        · next target => exact ⟨rfl, fun untargeted =>
            absurd target.symm (untargeted r (List.mem_of_find?_eq_some found))⟩
        · exact ⟨rfl, fun _ => rfl⟩
    · exact ih x

/-- The records of the instance that SHOW builds: the form's, in order, fresh but for what the rules computed (R36). -/
theorem newInstance_fields (number generation : Nat) (d : ActiveForm) (classes : Table ClassDef) (up : Bool) :
    (newInstance number generation d classes up).fields.map FieldRec.defn = d.defn.fields ∧
      ∀ g ∈ (newInstance number generation d classes up).fields,
        ∃ f ∈ d.defn.fields, (freshField d.defn f).RanTo d.defn.rules g := by
  obtain ⟨defns, ran⟩ := (bareInstance number generation d classes up).runRules_fields d.order
  refine ⟨defns.trans ((List.map_map ..).trans (List.map_id _)), fun g mem => ?_⟩
  obtain ⟨f, there, from_⟩ := ran g mem
  obtain ⟨e, form, rfl⟩ := List.mem_map.mp there
  exact ⟨e, form, from_⟩

/-- What the instance that SHOW builds takes over from the form and the library, and how it starts (R31, R36, R44). -/
theorem newInstance_copies (number generation : Nat) (d : ActiveForm) (classes : Table ClassDef) (up : Bool) :
    let x := newInstance number generation d classes up
    x.number = number ∧ x.generation = generation ∧ x.defn = d.defn ∧ x.order = d.order ∧
      x.classes = copiedClasses d.defn classes ∧ x.page = 1 ∧ x.visited = 0b0001#4 ∧ x.settling = up ∧
      x.insert = false := by
  refine ⟨FormInstance.recomputeAll_number _, FormInstance.recomputeAll_generation _,
    FormInstance.recomputeAll_defn _, FormInstance.recomputeAll_order _, FormInstance.recomputeAll_classes _,
    FormInstance.recomputeAll_page _,
    (FormInstance.recomputeAll_visited _).trans (show addPage 0#4 1 = 0b0001#4 by decide),
    newInstance_settling .., FormInstance.recomputeAll_insert _⟩

/-- Where SHOW places the cursor: at the field that the form names, else as HOME (R36). -/
theorem newInstance_cursor (number generation : Nat) (d : ActiveForm) (classes : Table ClassDef) (up : Bool) :
    let x := newInstance number generation d classes up
    (∀ n f, d.defn.initial = some n → x.field? n = some f → x.cursor = f.start) ∧
      (d.defn.initial = none → x.cursor = firstStart (x.inputsOn 1)) := by
  intro x
  have defn : x.defn = d.defn := FormInstance.recomputeAll_defn _
  have cursor : x.cursor = x.initialCursor := rfl
  rw [cursor, FormInstance.initialCursor, defn]
  refine ⟨fun n f initial named => ?_, fun initial => ?_⟩
  · rw [initial, Option.bind_some, named]
  · rw [initial, Option.bind_none]

/-- SHOW at a station that is not SUSPENDED (R36, R137). -/
theorem showOrder_some {l : Library} {number : Nat} {d : ActiveForm} {st : Station} (hold : Bool)
    (awake : st.state ≠ .suspended) (found : lookupKey number l.forms = some d) :
    showOrder l number hold (Act.start st) =
      .plain ⟨{ st with
          state := .active
          form := some (newInstance number l.generation d l.classes st.line.up)
          keyboard := if hold = true then .held else .free
          timer := none
          queue := [] }, [], true, []⟩ := by
  unfold showOrder
  cases state : st.state with
  | suspended => exact absurd state awake
  | noForm => simp only [Act.start_station, state, found]; rfl
  | active => simp only [Act.start_station, state, found]; rfl

theorem showOrder_outcome (l : Library) (number : Nat) (hold : Bool) (st : Station) :
    (showOrder l number hold (Act.start st)).outcome =
      if st.state = .suspended then .refused .suspended
      else if (lookupKey number l.forms).isSome = true then plainOutcome else .refused .noForm := by
  unfold showOrder
  cases state : st.state <;> cases found : lookupKey number l.forms <;> simp [state, OrderResult.outcome] <;> rfl

theorem showOrder_raises (l : Library) (number : Nat) (hold : Bool) (st : Station) :
    (showOrder l number hold (Act.start st)).raises = [] := by
  unfold showOrder
  split
  · rfl
  all_goals split <;> rfl

theorem exec_show {s : State} {set : StationSet} {form : Nat} (tag : Byte) (hold : Bool) (some : set ≠ 0#8)
    (lo : 1 ≤ form) (hi : form ≤ 32) (room : s.host.outstanding < 4) :
    exec (.showForm tag set form hold) s =
      (s.countIn.serveOrder tag 0x10#8 set fun _ _ => showOrder s.library form hold).done :=
  congrArg State.done (State.request_served tag room (r := .showForm set form hold)
    (by simp [requestValid, inRange, lo, hi, Config.forms]) (by simp [requestBytes])
    (earlyRefusal_eq_none rfl some rfl))

/-- Settles O26: SHOW is an order (`showOrder_some`), and the instance it builds is read field by field. -/
theorem showBuildsAnInstance : Obligations.ShowBuildsAnInstance := by
  constructor
  · intro tag set form hold s some lo hi room
    obtain ⟨t, run, quiet, ordered, stations⟩ := s.serveOrder_done tag 0x10#8 set
      (fun _ _ => showOrder s.library form hold) (fun i => showOrder_outcome s.library form hold (s.station i))
      fun _ _ st => showOrder_raises s.library form hold st
    exact ⟨t, (exec_show tag hold some lo hi room).trans run, quiet, ordered,
      fun i d mem awake found => State.left_of_orders stations mem (showOrder_some hold awake found)⟩
  · rintro number generation d classes up x rfl
    obtain ⟨number', generation', defn, order, copies, page, visited, settling, insert⟩ :=
      newInstance_copies number generation d classes up
    obtain ⟨defns, fresh⟩ := newInstance_fields number generation d classes up
    obtain ⟨named, home⟩ := newInstance_cursor number generation d classes up
    refine ⟨number', generation', defn, order, copies, page, visited, settling, insert, defns, fun g mem => ?_, named,
      home⟩
    obtain ⟨f, -, ran, same⟩ := fresh g mem
    refine ⟨by rw [ran]; rfl, by rw [ran]; rfl, by rw [ran]; rfl, fun untargeted => ?_⟩
    have fieldDefn : g.defn = f := by rw [ran]; rfl
    rw [same (by rw [← fieldDefn]; exact untargeted)]
    rfl

end Sys2Proof.Machine
end

section
/-! STATION RESET, SUSPEND and RESUME as commands (R28, R30, R46, R151 to R153, R169). -/

namespace Sys2Proof.Machine

/-! ## SUSPEND (R28, R152) -/

theorem suspendOrder_suspended {st : Station} (state : st.state = .suspended) (flags : BitVec 8) :
    suspendOrder flags (Act.start st) = .plain (Act.start st) := by
  simp only [suspendOrder, Act.start_station, state]

theorem suspendOrder_awake {st : Station} (awake : st.state ≠ .suspended) (flags : BitVec 8) :
    suspendOrder flags (Act.start st) =
      if st.slot.isSome = true ∨ st.attention = true ∨ flags ≠ 0#8 then .refused .pending
      else .plain (Act.start st).suspend := by
  have waits : (st.slot.isSome || st.attention || flags != 0#8) = true ↔
      st.slot.isSome = true ∨ st.attention = true ∨ flags ≠ 0#8 := by
    rw [Bool.or_eq_true, Bool.or_eq_true, bne_iff_ne, or_assoc]
  unfold suspendOrder
  cases state : st.state with
  | suspended => exact absurd state awake
  | noForm => simp only [Act.start_station, state, waits]
  | active => simp only [Act.start_station, state, waits]

theorem suspendOrder_outcome (st : Station) (flags : BitVec 8) :
    (suspendOrder flags (Act.start st)).outcome =
      if st.state ≠ .suspended ∧ (st.slot.isSome = true ∨ st.attention = true ∨ flags ≠ 0#8) then .refused .pending
      else plainOutcome := by
  by_cases state : st.state = .suspended
  · rw [suspendOrder_suspended state, if_neg fun h => h.1 state]
    rfl
  · rw [suspendOrder_awake state]
    simp only [ne_eq, state, not_false_eq_true, true_and]
    split <;> rfl

theorem suspendOrder_raises (st : Station) (flags : BitVec 8) :
    (suspendOrder flags (Act.start st)).raises = [] := by
  by_cases state : st.state = .suspended
  · rw [suspendOrder_suspended state]
    rfl
  · rw [suspendOrder_awake state]
    split <;> rfl

/-- A SUSPEND that nothing at the station holds up (R28, R152). -/
theorem suspendOrder_free {st : Station} (awake : st.state ≠ .suspended) (slot : st.slot = none)
    (attention : st.attention = false) :
    suspendOrder 0#8 (Act.start st) =
      .plain ⟨{ st with
          state := .suspended
          queue := []
          timer := none
          form := st.form.map fun x => { x with settling := false } }, [], true, []⟩ := by
  have free : ¬(st.slot.isSome = true ∨ st.attention = true ∨ 0#8 ≠ 0#8) := by simp [slot, attention]
  rw [suspendOrder_awake awake, if_neg free]
  rfl

theorem exec_suspend {s : State} {set : StationSet} (tag : Byte) (some : set ≠ 0#8) (room : s.host.outstanding < 4) :
    exec (.suspend tag set) s = (s.countIn.serveOrder tag 0x19#8 set fun _ flags => suspendOrder flags).done :=
  congrArg State.done (State.request_served tag room (r := .suspend set) rfl (by simp [requestBytes])
    (earlyRefusal_eq_none rfl some rfl))

/-! ## RESUME (R30, R153) -/

theorem resumeOrder_suspended {st : Station} (state : st.state = .suspended) :
    resumeOrder (Act.start st) = .plain (Act.start st).resume := by
  simp only [resumeOrder, Act.start_station, state]

theorem resumeOrder_awake {st : Station} (awake : st.state ≠ .suspended) :
    resumeOrder (Act.start st) = .plain (Act.start st) := by
  unfold resumeOrder
  cases state : st.state with
  | suspended => exact absurd state awake
  | noForm => simp only [Act.start_station, state]
  | active => simp only [Act.start_station, state]

theorem resumeOrder_outcome (st : Station) : (resumeOrder (Act.start st)).outcome = plainOutcome := by
  unfold resumeOrder
  split <;> rfl

theorem resumeOrder_raises (st : Station) : (resumeOrder (Act.start st)).raises = [] := by
  by_cases state : st.state = .suspended
  · rw [resumeOrder_suspended state]
    cases form : st.form with
    | none => rw [Act.resume_none form]; rfl
    | some x => rw [Act.resume_some form]; rfl
  · rw [resumeOrder_awake state]
    rfl

/-- What RESUME leaves of a station (R30, R44, R153). -/
theorem resumeOrder_lineKept (st : Station) : ∃ a, resumeOrder (Act.start st) = .plain a ∧ st.LineKept a.station := by
  by_cases state : st.state = .suspended
  · refine ⟨_, resumeOrder_suspended state, ?_⟩
    cases form : st.form with
    | none => rw [Act.resume_none form]; exact .of_line rfl
    | some x => rw [Act.resume_some form]; exact .of_line rfl
  · exact ⟨_, resumeOrder_awake state, .of_line rfl⟩

theorem exec_resume {s : State} {set : StationSet} (tag : Byte) (some : set ≠ 0#8) (room : s.host.outstanding < 4) :
    exec (.resume tag set) s = (s.countIn.serveOrder tag 0x1A#8 set fun _ _ => resumeOrder).done :=
  congrArg State.done (State.request_served tag room (r := .resume set) rfl (by simp [requestBytes])
    (earlyRefusal_eq_none rfl some rfl))

/-- Settles O34: SUSPEND and RESUME are orders, each written out where it changes a station and where it does not. -/
theorem suspendAndResume : Obligations.SuspendAndResume := by
  constructor
  · intro tag set s some room
    obtain ⟨t, run, quiet, ordered, stations⟩ := s.serveOrder_done tag 0x19#8 set (fun _ flags => suspendOrder flags)
      (fun i => suspendOrder_outcome (s.station i) (s.flagsOf i)) fun _ flags st => suspendOrder_raises st flags
    refine ⟨t, (exec_suspend tag some room).trans run, quiet, ordered, fun i mem => ⟨fun state => ?_,
      fun awake slot attention clear => ?_⟩⟩
    · exact State.left_of_orders stations mem (suspendOrder_suspended state (s.flagsOf i))
    · have applied := suspendOrder_free awake slot attention
      rw [← clear] at applied
      exact State.left_of_orders stations mem applied
  · intro tag set s some room
    obtain ⟨t, run, quiet, ordered, stations⟩ := s.serveOrder_done tag 0x1A#8 set (fun _ _ => resumeOrder)
      (fun i => resumeOrder_outcome (s.station i)) fun _ _ st => resumeOrder_raises st
    refine ⟨t, (exec_resume tag some room).trans run, quiet, ordered, fun i mem => ⟨?_, fun awake => ?_,
      fun state form => ?_, fun x state form => ?_⟩⟩
    · obtain ⟨a, applied, kept⟩ := resumeOrder_lineKept (s.station i)
      exact kept.trans (State.left_of_orders stations mem applied).2
    · exact (State.left_of_orders stations mem (resumeOrder_awake awake)).1
    · exact (State.left_of_orders stations mem
        ((resumeOrder_suspended state).trans (congrArg OrderResult.plain (Act.resume_none form)))).1
    · exact (State.left_of_orders stations mem
        ((resumeOrder_suspended state).trans (congrArg OrderResult.plain (Act.resume_some form)))).1

/-! ## STATION RESET (R46, R151, R169) -/

/-- The line unit that STATION RESET gives, before the composer's repaint request and the engine's choice (R169). -/
def Station.stationResetLine (st : Station) : LineUnit :=
  { st.line with
    scanErrors := 0
    scanner := if st.settings.scanner = true then .enabled else .disabled
    tone := none }

/-- The station that STATION RESET gives, before its image and its line unit follow (R46). -/
def Station.stationEmptied (st : Station) : Station :=
  ⟨.noForm, none, .free, [], none, false, none, st.settings, List.replicate 40 blank, [], st.stationResetLine⟩

/-- STATION RESET empties the station and asks the repaint of the whole screen (R42, R46). -/
theorem Act.stationReset_finish (st : Station) :
    (Act.start st).stationReset.finish st.image = (⟨st.stationEmptied, [], true, []⟩ : Act).finish st.image := rfl

/-- The line unit of an emptied station after the repaint request, to which no tone is added. -/
theorem Station.stationEmptied_line (st : Station) (before : Image) :
    ((⟨st.stationEmptied, [], true, []⟩ : Act).finish before).line =
      if st.line.up = true ∧ st.line.inFlight = none then
        { st.stationResetLine with
          paintQueue := [], repaintAll := false, repaint := some 1, inFlight := some .erase, lastCursor := some 0 }
      else { st.stationResetLine with paintQueue := [], repaintAll := true, repaint := none } := by
  have handed : (⟨st.stationEmptied, [], true, []⟩ : Act).handed before (composeImage st.stationEmptied) =
      st.stationResetLine.requestRepaint := ite_self _
  show LineUnit.engine (Act.handed _ _ _) _ _ = _
  rw [handed]
  exact LineUnit.requestRepaint_engine (l := st.stationResetLine) rfl _ _

/-- What STATION RESET leaves of a station, once the station is the emptied one at the end of its event. -/
theorem State.left_stationEmptied {s t : State} {i : StationId}
    (h : t.station i = (⟨(s.station i).stationEmptied, [], true, []⟩ : Act).finish (s.station i).image) :
    s.Left t i (s.station i).stationEmptied true [] ∧ (s.station i).stationEmptied.LineKept (t.station i) ∧
      (t.station i).line.tone = none ∧ (t.station i).line.paintQueue = [] ∧
      if (s.station i).line.up = true ∧ (s.station i).line.inFlight = none then
        (t.station i).line.inFlight = some .erase ∧ (t.station i).line.repaint = some 1 ∧
          (t.station i).line.repaintAll = false ∧ (t.station i).line.lastCursor = some 0
      else
        (t.station i).line.inFlight = (s.station i).line.inFlight ∧ (t.station i).line.repaint = none ∧
          (t.station i).line.repaintAll = true ∧ (t.station i).line.lastCursor = (s.station i).line.lastCursor := by
  refine ⟨⟨by rw [h]; rfl, h⟩, h ▸ Act.finish_lineKept _ _, ?_⟩
  rw [h, Station.stationEmptied_line]
  by_cases idle : (s.station i).line.up = true ∧ (s.station i).line.inFlight = none
  · rw [if_pos idle, if_pos idle]
    exact ⟨rfl, rfl, rfl, rfl, rfl, rfl⟩
  · rw [if_neg idle, if_neg idle]
    exact ⟨rfl, rfl, rfl, rfl, rfl, rfl⟩

/-- Flags cleared at the stations of a list: theirs by the mask, all else of the event unit kept (R151). -/
theorem State.clears_events (is : List StationId) (s : State) (m : BitVec 8) (nd : is.Nodup) :
    let t := is.foldl (fun t i => { t with events := t.events.clearStation i m }) s
    t.events.partFlags = s.events.partFlags ∧ t.events.enables = s.events.enables ∧
      t.events.holdOff = s.events.holdOff ∧
      ∀ j : StationId, t.events.stationFlags[j.val] =
        if j ∈ is then s.events.stationFlags[j.val] &&& ~~~m else s.events.stationFlags[j.val] := by
  induction is generalizing s with
  | nil => simp
  | cons i is ih =>
    obtain ⟨fresh, nd⟩ := List.nodup_cons.mp nd
    obtain ⟨part, enables, holdOff, flags⟩ := ih { s with events := s.events.clearStation i m } nd
    refine ⟨part, enables, holdOff, fun j => (flags j).trans ?_⟩
    by_cases here : j = i
    · subst here
      simp [fresh, EventUnit.clearStation]
    · have apart : i.val ≠ j.val := fun e => here (Fin.ext e.symm)
      simp [here, apart, EventUnit.clearStation]

theorem exec_stationReset {s : State} {set : StationSet} (tag : Byte) (some : set ≠ 0#8)
    (room : s.host.outstanding < 4) : exec (.stationReset tag set) s = (s.countIn.serveStationReset tag set).done :=
  congrArg State.done (State.request_served tag room (r := .stationReset set) rfl (by simp [requestBytes])
    (earlyRefusal_eq_none rfl some rfl))

/-- Settles O33: STATION RESET is an order that empties its stations (`State.left_stationEmptied`) and then clears their
event flags (`State.clears_events`). -/
theorem stationResetEmptiesTheStation : Obligations.StationResetEmptiesTheStation := by
  intro tag set s some room
  let orders := s.countIn.orders (fun _ _ a => .plain a.stationReset) (members set)
  obtain ⟨library, host, pending, stations⟩ := State.clears_frame (members set) orders.1 0xFF#8
  obtain ⟨part, enables, holdOff, flags⟩ := State.clears_events (members set) orders.1 0xFF#8 (members_nodup set)
  have quiet : orders.1.events = s.events :=
    State.orders_events_quiet (fun _ _ a => .plain a.stationReset) (members set) s.countIn fun _ _ _ => rfl
  refine ⟨_, exec_stationReset tag some room, ?_, fun i mem => ?_, ?_⟩
  · exact State.ordered_of_orders (f := fun _ _ a => .plain a.stationReset) (fun _ => rfl) stations
      (library.trans (State.orders_library ..)) (pending.trans (State.orders_pending ..))
      (congrArg (fun h : HostLine => h.send _) (host.trans (State.orders_host ..)))
  · obtain ⟨⟨-, left⟩, -⟩ := State.left_of_orders (s := s) (f := fun _ _ a => .plain a.stationReset) stations mem
      (show OrderResult.plain (Act.start (s.station i)).stationReset = .plain _ from rfl)
    exact State.left_stationEmptied (left.trans (Act.stationReset_finish _))
  · rw [quiet] at part enables holdOff flags
    refine ⟨part, enables, holdOff, fun i => (flags i).trans ?_⟩
    simp only [mem_members]
    rw [show ~~~(0xFF#8) = 0#8 by decide, BitVec.and_zero]

end Sys2Proof.Machine
end

section
/-! The tab ring and the page keys (R36, R43, R59, R61, R62, R68). -/

namespace Sys2Proof.Machine

/-! ## The tab ring (section 3.6) -/

/-- The input fields of a page, by rising start. -/
theorem FormInstance.inputsOn_sorted (x : FormInstance) (p : Nat) :
    (x.inputsOn p).Pairwise (fun f g => f.start ≤ g.start) :=
  pairwise_insertionSort FieldRec.start _

theorem FormInstance.inputsOn_perm (x : FormInstance) (p : Nat) :
    (x.inputsOn p).Perm (x.fields.filter fun f => decide (f.defn.page = p ∧ f.kind = .input)) := by
  have same : (fun f : FieldRec => decide (f.defn.page = p ∧ f.kind = .input)) =
      fun f => f.defn.page == p && f.isInput := by
    funext f
    rw [Bool.eq_iff_iff, decide_eq_true_iff, Bool.and_eq_true, beq_iff_eq, FieldRec.isInput_iff]
  rw [same]
  exact List.perm_insertionSort _ _

/-! ## Destinations (R61, R62) -/

section Destinations

variable {x : FormInstance}

theorem FormInstance.tabFrom_none {p : Nat} (none : ∀ g ∈ x.ring, g.start ≤ p) : x.tabFrom p = firstStart x.ring := by
  rw [FormInstance.tabFrom, List.find?_eq_none.mpr fun g mem => by simpa using none g mem]

theorem FormInstance.tabFrom_next {a b : List FieldRec} {f : FieldRec} {p : Nat} (ring : x.ring = a ++ f :: b)
    (before : ∀ g ∈ a, g.start ≤ p) (after : p < f.start) : x.tabFrom p = f.start := by
  have none : a.find? (fun g => decide (p < g.start)) = none :=
    List.find?_eq_none.mpr fun g mem => by simpa using before g mem
  simp [FormInstance.tabFrom, ring, none, after]

theorem FormInstance.backtabTo_inside {f : FieldRec} (here : x.inputAtCursor = some f) (inside : f.start < x.cursor) :
    x.backtabTo = f.start := by
  simp only [FormInstance.backtabTo, here, if_pos inside]

/-- The last field of the ring that starts before the cursor, else the last of all (R61). -/
theorem FormInstance.backtabTo_outside (outside : ∀ f, x.inputAtCursor = some f → x.cursor ≤ f.start) :
    x.backtabTo =
      match (x.ring.filter fun f => decide (f.start < x.cursor)).getLast? with
      | some f => f.start
      | none => firstStart x.ring.reverse := by
  unfold FormInstance.backtabTo
  dsimp only
  split
  · next f here => exact if_neg (Nat.not_lt.mpr (outside f here))
  · rfl

theorem FormInstance.backtabTo_previous {a b : List FieldRec} {f : FieldRec}
    (outside : ∀ f, x.inputAtCursor = some f → x.cursor ≤ f.start) (ring : x.ring = a ++ f :: b)
    (before : f.start < x.cursor) (after : ∀ g ∈ b, x.cursor ≤ g.start) : x.backtabTo = f.start := by
  have none : b.filter (fun g => decide (g.start < x.cursor)) = [] :=
    List.filter_eq_nil_iff.mpr fun g mem => by simpa using after g mem
  rw [FormInstance.backtabTo_outside outside, ring, List.filter_append, List.filter_cons_of_pos (by simpa using before),
    none, List.getLast?_concat]

theorem FormInstance.backtabTo_last (outside : ∀ f, x.inputAtCursor = some f → x.cursor ≤ f.start)
    (none : ∀ g ∈ x.ring, x.cursor ≤ g.start) : x.backtabTo = firstStart x.ring.reverse := by
  rw [FormInstance.backtabTo_outside outside, List.filter_eq_nil_iff.mpr fun g mem => by simpa using none g mem]
  rfl

theorem FormInstance.newlineTo_below {a b : List FieldRec} {f : FieldRec} (ring : x.ring = a ++ f :: b)
    (before : ∀ g ∈ a, g.defn.row ≤ x.cursor / 80 + 1) (below : x.cursor / 80 + 1 < f.defn.row) :
    x.newlineTo = f.start := by
  have none : a.find? (fun g => decide (rowOf x.cursor < g.defn.row)) = none :=
    List.find?_eq_none.mpr fun g mem below => Nat.not_lt.mpr (before g mem) (of_decide_eq_true below)
  have below : rowOf x.cursor < f.defn.row := below
  simp [FormInstance.newlineTo, ring, none, below]

theorem FormInstance.newlineTo_first {f : FieldRec} {b : List FieldRec} (ring : x.ring = f :: b)
    (none : ∀ g ∈ x.ring, g.defn.row ≤ x.cursor / 80 + 1) : x.newlineTo = f.start := by
  have above : x.ring.find? (fun g => decide (rowOf x.cursor < g.defn.row)) = Option.none :=
    List.find?_eq_none.mpr fun g mem below => Nat.not_lt.mpr (none g mem) (of_decide_eq_true below)
  rw [FormInstance.newlineTo, above, ring]
  rfl

/-- Without a field in the ring NEWLINE goes to the start of the next row, after row 23 to row 1 (R62). -/
theorem FormInstance.newlineTo_empty (ring : x.ring = []) (area : x.cursor < 1840) :
    x.newlineTo = if x.cursor / 80 + 1 = 23 then 0 else (x.cursor / 80 + 1) * 80 := by
  have goes : x.newlineTo = (x.cursor / 80 + 1) % 23 * 80 := by
    rw [FormInstance.newlineTo, ring]
    rfl
  rw [goes]
  split <;> omega

end Destinations

/-! ## Keys that move (R49, R59) -/

/-- The command `c` moves the cursor of station `i` to `dest`, guarded by the exit check, the item before `q` taken. -/
def State.MovesTo (s : State) (i : StationId) (x : FormInstance) (q : List Item) (c : Instr) (dest : Nat) : Prop :=
  ∃ t, exec c s = .next t ∧ s.EventsQuiet t ∧
    s.Made t i { s.station i with
      queue := q, form := some (x.guardedTo dest), keyboard := x.guardedKeyboard dest } false (x.guardedTones dest)

/-- A key whose action in FREE is a move (R59). -/
theorem State.Takes.movesTo {s : State} {i : StationId} {x : FormInstance} {it : Item} {q : List Item}
    (h : s.Takes i x it q) {want : Item → Bool} (wanted : want it = true) {act : Item → Act → FormInstance → Act}
    {dest : Nat} (move : ∀ a, act it a x = a.move x dest) {c : Instr} (row : exec c s = s.take i want act) :
    s.MovesTo i x q c dest := by
  obtain ⟨-, -, -, free, -⟩ := id h
  obtain ⟨t, run, quiet, made⟩ := h.quiet wanted act (move _ ▸ Act.keyed_move _ x dest)
  rw [move, Act.move_eq _ x dest free] at made
  exact ⟨t, row.trans run, quiet, made⟩

/-- Settles O51: each ring key is a move (`State.Takes.movesTo`) to its destination in the tab ring. -/
theorem ringKeysMove : Obligations.RingKeysMove := by
  refine ⟨fun x p => ⟨rfl, x.inputsOn_sorted p, x.inputsOn_perm p⟩, ⟨rfl, fun f fs => rfl⟩, fun i s x q =>
    ⟨fun taken => ?_, fun taken => ?_, fun taken => ?_, fun taken => ?_⟩⟩
  · have moves : s.MovesTo i x q (.tab i) (x.tabFrom x.cursor) := taken.movesTo rfl (fun _ => rfl) rfl
    refine ⟨fun ring => ?_, fun a f b ring => ⟨fun before after => ?_, fun first past => ?_⟩⟩
    · rw [x.tabFrom_none (by simp [ring]), ring] at moves
      exact moves
    · rw [x.tabFrom_next ring before after] at moves
      exact moves
    · subst first
      rw [x.tabFrom_none past, ring] at moves
      exact moves
  · have moves : s.MovesTo i x q (.backtab i) x.backtabTo := taken.movesTo rfl (fun _ => rfl) rfl
    refine ⟨fun f here inside => ?_, fun outside => ⟨fun ring => ?_, fun a f b ring => ⟨fun before after => ?_,
      fun last past => ?_⟩⟩⟩
    · rw [x.backtabTo_inside here inside] at moves
      exact moves
    · rw [x.backtabTo_last outside (by simp [ring]), ring] at moves
      exact moves
    · rw [x.backtabTo_previous outside ring before after] at moves
      exact moves
    · subst last
      rw [x.backtabTo_last outside past, ring, List.reverse_append] at moves
      exact moves
  · have moves : s.MovesTo i x q (.home i) x.homeTo := taken.movesTo rfl (fun _ => rfl) rfl
    rw [FormInstance.homeTo] at moves
    refine ⟨fun ring => ?_, fun f b ring => ?_⟩
    · rw [ring] at moves
      exact moves
    · rw [ring] at moves
      exact moves
  · have moves : s.MovesTo i x q (.newline i) x.newlineTo := taken.movesTo rfl (fun _ => rfl) rfl
    refine ⟨fun ring area => ?_, fun a f b ring => ⟨fun before below => ?_, fun first past => ?_⟩⟩
    · rw [x.newlineTo_empty ring area] at moves
      exact moves
    · rw [x.newlineTo_below ring before below] at moves
      exact moves
    · subst first
      rw [x.newlineTo_first ring past] at moves
      exact moves

/-! ## A tone that is asked (R53, R168) -/

/-- A tone is pending, or on its way. -/
def LineUnit.Sounds (l : LineUnit) : Prop := l.tone.isSome = true ∨ ∃ tone, l.inFlight = some (.tone tone)

theorem LineUnit.askTones_tone (ts : List Tone) {l : LineUnit} (up : l.up = true)
    (h : l.tone.isSome = true ∨ ts ≠ []) : (ts.foldl LineUnit.askTone l).tone.isSome = true := by
  induction ts generalizing l with
  | nil => exact h.resolve_right fun ne => ne rfl
  | cons t ts ih =>
    refine ih ((LineUnit.askTone_up l t).trans up) (.inl ?_)
    rw [LineUnit.askTone, if_pos up]
    rfl

theorem LineUnit.sounds_engine {l : LineUnit} (pending : l.tone.isSome = true) (img : Image) (p : Nat) :
    (l.engine img p).Sounds := by
  obtain ⟨t, tone⟩ := Option.isSome_iff_exists.mp pending
  unfold LineUnit.engine
  split
  · simp only [LineUnit.startNext, tone]
    exact .inr ⟨t, rfl⟩
  · exact .inl pending

/-- A tone asked in an event, on an UP line with the tone setting on, is pending or in flight afterwards (R168). -/
theorem Act.finish_sounds {a : Act} (up : a.station.line.up = true) (on : a.station.settings.tone = true)
    (asked : a.tones ≠ []) (before : Image) : (a.finish before).line.Sounds := by
  refine LineUnit.sounds_engine ?_ _ _
  unfold Act.handed
  dsimp only
  rw [if_pos on]
  refine LineUnit.askTones_tone _ ?_ (.inr asked)
  split
  · exact up
  · exact (LineUnit.handSpans_up _ _).trans up

/-! ## Page keys (R68) -/

/-- What a page key makes of its station (R53, R59, R68). -/
def State.TurnsTo (s : State) (i : StationId) (x : FormInstance) (q : List Item) (c : Instr) (target : Option Nat) :
    Prop :=
  ∃ t, exec c s = .next t ∧ s.EventsQuiet t ∧
    (target = none →
      s.Made t i { s.station i with queue := q } false [.short] ∧
      ((s.station i).line.up = true → (s.station i).settings.tone = true → (t.station i).line.Sounds)) ∧
    ∀ p, target = some p →
      (∀ n m, x.departure (fun _ => false) = some (n, m) →
        s.Made t i { s.station i with
          queue := q, form := some (x.mark n m), keyboard := .inhibited (markReason m) } false [.long]) ∧
      (x.departure (fun _ => false) = none →
        s.Made t i { s.station i with
          queue := q
          form := some { x with
            page := p
            visited := x.visited ||| BitVec.twoPow 4 (p - 1)
            cursor := firstStart (x.inputsOn p)
            settling := (s.station i).line.up } } true [])

/-- A key whose action in FREE is a page key with its target. -/
theorem State.Takes.turnsTo {s : State} {i : StationId} {x : FormInstance} {it : Item} {q : List Item}
    (h : s.Takes i x it q) {want : Item → Bool} (wanted : want it = true) {act : Item → Act → FormInstance → Act}
    {target : Option Nat} (key : ∀ a, act it a x = a.pageKey x target) {c : Instr}
    (row : exec c s = s.take i want act) : s.TurnsTo i x q c target := by
  obtain ⟨t, run, quiet, made⟩ := h.quiet wanted act (key _ ▸ Act.keyed_pageKey _ x target)
  rw [key] at made
  refine ⟨t, row.trans run, quiet, fun none => ?_, fun p some => ⟨fun n m fails => ?_, fun passes => ?_⟩⟩
  · subst none
    refine ⟨made, fun up on => ?_⟩
    obtain ⟨⟨-, left⟩, -⟩ := made
    rw [left]
    exact Act.finish_sounds up on (List.cons_ne_nil _ _) _
  · subst some
    simp only [Act.pageKey, fails] at made
    exact made
  · subst some
    simp only [Act.pageKey, passes] at made
    exact made

/-- Settles O52: each page key is a page key with the target of R68 (`State.Takes.turnsTo`). -/
theorem pageKeysSwitch : Obligations.PageKeysSwitch := by
  intro i s x q
  constructor
  · intro taken
    have turns : s.TurnsTo i x q (.pageNext i) x.nextPage := taken.turnsTo rfl (fun _ => rfl) rfl
    exact turns
  · intro taken
    have turns : s.TurnsTo i x q (.pagePrior i) x.priorPage := taken.turnsTo rfl (fun _ => rfl) rfl
    exact turns

end Sys2Proof.Machine
end

section
/-! Key queues, response timers and scanners stay within their rules (R47, R104, R106, R126 to R128, R148, R158). -/

namespace Sys2Proof.Machine

/-! ## What goes with a key queue, a response timer and a scanner -/

theorem Station.QueueSound.kept {st u : Station} (h : st.QueueSound) (queue : u.queue = st.queue)
    (up : u.line.up = st.line.up) : u.QueueSound := by
  unfold Station.QueueSound
  rw [queue, up]
  exact h

theorem Station.queueSound_of_empty {u : Station} (empty : u.queue = []) : u.QueueSound := by
  unfold Station.QueueSound
  rw [empty]
  exact ⟨Nat.zero_le _, fun _ => rfl⟩

/-- An item taken leaves room, and an empty queue empty. -/
theorem Station.QueueSound.tail {st u : Station} (h : st.QueueSound) (queue : u.queue = st.queue.tail)
    (up : u.line.up = st.line.up) : u.QueueSound := by
  obtain ⟨room, down⟩ := h
  refine ⟨?_, fun isDown => ?_⟩
  · rw [queue, List.length_tail]
    exact (Nat.sub_le _ _).trans room
  · rw [queue, down (up ▸ isDown)]
    rfl

theorem Station.timerSound_of_stopped {u : Station} (stopped : u.timer = none) : u.TimerSound := by
  intro n running
  rw [stopped] at running
  cases running

/-- Outside ACTIVE, or with the keyboard not WAITING, the timer stands still. -/
theorem Station.TimerSound.stopped {st : Station} (h : st.TimerSound)
    (idle : st.state ≠ .active ∨ st.keyboard ≠ .waiting) : st.timer = none := by
  refine Option.eq_none_iff_forall_ne_some.mpr fun n running => ?_
  obtain ⟨active, waiting, -⟩ := h n running
  exact idle.elim (· active) (· waiting)

theorem Station.TimerSound.kept {st u : Station} (h : st.TimerSound) (timer : u.timer = st.timer)
    (state : u.state = st.state) (keyboard : u.keyboard = st.keyboard) (settings : u.settings = st.settings) :
    u.TimerSound := by
  unfold Station.TimerSound
  rw [timer, state, keyboard, settings]
  exact h

theorem Station.ScannerSound.kept {st u : Station} (h : st.ScannerSound) (scanner : u.line.scanner = st.line.scanner)
    (errors : u.line.scanErrors = st.line.scanErrors) (setting : u.settings.scanner = st.settings.scanner) :
    u.ScannerSound := by
  unfold Station.ScannerSound
  rw [scanner, errors, setting]
  exact h

/-- A scanner that follows its setting stands at 0 errors (R106). -/
theorem Station.scannerSound_of_setting {u : Station} (scanner : u.line.scanner = scannerBySetting u.settings.scanner)
    (errors : u.line.scanErrors = 0) : u.ScannerSound := by
  unfold Station.ScannerSound
  rw [scanner, errors]
  cases u.settings.scanner with
  | true => exact ⟨Nat.zero_lt_succ 31, by decide⟩
  | false => exact ⟨rfl, by decide⟩

/-! ## Every event -/

/-- A property of stations that power-on gives, and that every event and every message keeps, is kept by what one
command makes of a station. -/
theorem StationMove.keeps {P : Station → Prop} {l : Library} {i : StationId} {flags : BitVec 8} {st u : Station}
    (move : StationMove l i flags st u) (reset : P Station.reset)
    (event : ∀ {a : Act}, ActMove l i flags st a → P st → P (a.finish st.image))
    (message : ∀ {v w : Station}, LineMove v w → P v → P w) (h : P st) : P u := by
  cases move with
  | stays => exact h
  | power => exact reset
  | event move => exact event move h
  | heard moves =>
    induction moves with
    | refl => exact h
    | tail _ move ih => exact message move ih

/-! ### Key queues (R47, R158) -/

/-- An order leaves the key queue or empties it. -/
theorem OrderMove.queue {l : Library} {i : StationId} {flags : BitVec 8} {st : Station} {a : Act}
    (move : OrderMove l i flags st a) :
    (a.station.queue = st.queue ∨ a.station.queue = []) ∧ a.station.line.up = st.line.up := by
  cases move with
  | shown _ _ _ => exact ⟨.inr rfl, rfl⟩
  | wrote _ _ _ _ _ =>
    rw [Act.writeRest_eq]
    exact ⟨.inl rfl, rfl⟩
  | set c _ =>
    refine ⟨.inl rfl, ?_⟩
    dsimp only
    split <;> rfl
  | reset => exact ⟨.inr rfl, rfl⟩
  | suspended _ _ _ _ => exact ⟨.inr rfl, rfl⟩
  | resumed _ =>
    cases form : st.form with
    | some x =>
      rw [Act.resume_some form]
      exact ⟨.inl rfl, rfl⟩
    | none =>
      rw [Act.resume_none form]
      exact ⟨.inl rfl, rfl⟩
  | _ => exact ⟨.inl rfl, rfl⟩

theorem ActMove.keyQueue {l : Library} {i : StationId} {flags : BitVec 8} {st : Station} {a : Act}
    (move : ActMove l i flags st a) (h : st.QueueSound) : (a.finish st.image).QueueSound := by
  cases move with
  | @taken it x _ =>
    obtain keyed | ⟨-, -, refused⟩ | ⟨-, -, composed⟩ := Act.takeItem_cases l i it (Act.start st) x
    · exact h.tail keyed.queue (by rw [Act.finish_line_up, keyed.line]; rfl)
    · rw [Act.Refused] at refused
      rw [refused]
      exact h.tail rfl (Act.finish_line_up _ _)
    · exact h.tail composed.queue (by rw [Act.finish_line_up, composed.line]; rfl)
  | silent _ => exact Station.queueSound_of_empty rfl
  | sent _ =>
    rw [Act.transmitted_eq]
    exact h.kept rfl (Act.finish_line_up _ _)
  | expires _ => exact h.kept rfl (Act.finish_line_up _ _)
  | collected _ => exact h.kept rfl (Act.finish_line_up _ _)
  | ordered valid order applied =>
    obtain ⟨kept | empty, up⟩ := (order_cases valid order applied).queue
    · exact h.kept kept ((Act.finish_line_up _ _).trans up)
    · exact Station.queueSound_of_empty empty
  | partReset => exact Station.queueSound_of_empty rfl

@[simp] theorem Station.hear_line_up (st : Station) : st.hear.line.up = true := by
  unfold Station.hear
  dsimp only
  split <;> simp [LineUnit.hear]

/-- An item joins a queue with room, on a line that its message has brought UP (R48, R157). -/
theorem LineMove.keyQueue {st u : Station} (move : LineMove st u) (h : st.QueueSound) : u.QueueSound := by
  cases move with
  | read r => exact h
  | parity => exact h
  | framing => exact h
  | @accepted message _ =>
    have a := Act.arrived st message
    obtain ⟨room, -⟩ := h
    obtain ⟨n, sc, line, -⟩ := a.line
    refine ⟨?_, fun down => ?_⟩
    · rw [Act.finish_queue]
      obtain same | ⟨-, free, it, joined⟩ := a.queue
      · rw [same]
        exact room
      · rw [joined, List.length_append]
        exact free
    · rw [Act.finish_line_up, line, Station.hear_line_up] at down
      cases down

/-! ### Response timers (R126 to R128, R148) -/

theorem OrderMove.timerSound {l : Library} {i : StationId} {flags : BitVec 8} {st : Station} {a : Act}
    (move : OrderMove l i flags st a) (h : st.TimerSound) : a.station.TimerSound := by
  cases move with
  | shown _ _ _ => exact Station.timerSound_of_stopped rfl
  | wrote _ _ _ _ _ =>
    rename_i w _ _ _ _ _ _
    rw [Act.writeRest_eq]
    cases restore : w.restore with
    | true => exact Station.timerSound_of_stopped rfl
    | false => exact h.kept rfl rfl rfl rfl
  | noticed _ _ _ _ => exact h.kept rfl rfl rfl rfl
  | held _ _ =>
    refine Station.timerSound_of_stopped ?_
    dsimp only
    split
    · rfl
    · next idle => exact h.stopped (.inr idle)
  | released _ _ =>
    by_cases held : st.keyboard = .held
    · exact Station.timerSound_of_stopped (h.stopped (.inr (by rw [held]; decide)))
    · exact h.kept rfl rfl (if_neg held) rfl
  | turned _ _ _ _ => exact h.kept rfl rfl rfl rfl
  | reread _ _ _ => exact h.kept rfl rfl rfl rfl
  | set c inactive => exact Station.timerSound_of_stopped (h.stopped (.inl inactive))
  | reset => exact Station.timerSound_of_stopped rfl
  | suspended _ _ _ _ => exact Station.timerSound_of_stopped rfl
  | resumed state =>
    have stopped : st.timer = none := h.stopped (.inl (by rw [state]; decide))
    cases form : st.form with
    | some x =>
      rw [Act.resume_some form]
      intro n running
      dsimp only at running
      split at running
      · next starts =>
        cases running
        exact ⟨rfl, starts.1, rfl, starts.2⟩
      · rw [stopped] at running
        cases running
    | none =>
      rw [Act.resume_none form]
      exact Station.timerSound_of_stopped stopped
  | unchanged => exact h

theorem ActMove.timerSound {l : Library} {i : StationId} {flags : BitVec 8} {st : Station} {a : Act}
    (move : ActMove l i flags st a) (h : st.TimerSound) : a.station.TimerSound := by
  cases move with
  | @taken it x head =>
    obtain ⟨active, -, -, takes, -⟩ := Station.head?_some head
    have stopped : st.timer = none := h.stopped (.inr fun waiting => by rw [waiting] at takes; cases takes)
    obtain keyed | ⟨-, -, refused⟩ | ⟨-, -, composed⟩ := Act.takeItem_cases l i it (Act.start st) x
    · exact Station.timerSound_of_stopped (keyed.timer.trans stopped)
    · rw [Act.Refused] at refused
      rw [refused]
      exact Station.timerSound_of_stopped stopped
    · intro n running
      have timer : _ = if st.settings.timeout = 0 then st.timer else some st.settings.timeout := composed.timer
      have settings : _ = st.settings := composed.settings
      rw [timer] at running
      rw [settings]
      split at running
      · rw [stopped] at running
        cases running
      · next nonzero =>
        cases running
        exact ⟨composed.state.trans active, composed.keyboard, rfl, nonzero⟩
  | silent _ => exact h.kept rfl rfl rfl rfl
  | sent _ =>
    rw [Act.transmitted_eq]
    exact h.kept rfl rfl rfl rfl
  | expires _ => exact Station.timerSound_of_stopped rfl
  | collected _ => exact h.kept rfl rfl rfl rfl
  | ordered valid order applied => exact (order_cases valid order applied).timerSound h
  | partReset => exact Station.timerSound_of_stopped rfl

theorem LineMove.timerSound {st u : Station} (move : LineMove st u) (h : st.TimerSound) : u.TimerSound := by
  cases move with
  | read r => exact h
  | parity => exact h
  | framing => exact h
  | @accepted message _ =>
    have a := Act.arrived st message
    exact h.kept a.timer a.state a.keyboard a.settings

/-! ### Scanners (R104, R106) -/

theorem OrderMove.scannerSound {l : Library} {i : StationId} {flags : BitVec 8} {st : Station} {a : Act}
    (move : OrderMove l i flags st a) (h : st.ScannerSound) : a.station.ScannerSound := by
  cases move with
  | wrote _ _ _ _ _ =>
    rw [Act.writeRest_eq]
    exact h
  | set c _ =>
    cases carried : c.scanner with
    | some on =>
      refine Station.scannerSound_of_setting ?_ rfl
      show scannerBySetting on = scannerBySetting (c.scanner.getD st.settings.scanner)
      rw [carried]
      rfl
    | none =>
      refine h.kept rfl rfl ?_
      show c.scanner.getD st.settings.scanner = st.settings.scanner
      rw [carried]
      rfl
  | reset => exact Station.scannerSound_of_setting rfl rfl
  | resumed _ =>
    cases form : st.form with
    | some x =>
      rw [Act.resume_some form]
      exact h
    | none =>
      rw [Act.resume_none form]
      exact h
  | _ => exact h

theorem ActMove.scannerSound {l : Library} {i : StationId} {flags : BitVec 8} {st : Station} {a : Act}
    (move : ActMove l i flags st a) (h : st.ScannerSound) : a.station.ScannerSound := by
  cases move with
  | @taken it x _ =>
    obtain keyed | ⟨-, -, refused⟩ | ⟨-, -, composed⟩ := Act.takeItem_cases l i it (Act.start st) x
    · exact h.kept (by rw [keyed.line]; rfl) (by rw [keyed.line]; rfl) (by rw [keyed.settings]; rfl)
    · rw [Act.Refused] at refused
      rw [refused]
      exact h
    · exact h.kept (by rw [composed.line]; rfl) (by rw [composed.line]; rfl) (by rw [composed.settings]; rfl)
  | silent _ => exact h
  | sent _ =>
    rw [Act.transmitted_eq]
    exact h
  | expires _ => exact h
  | collected _ => exact h
  | ordered valid order applied => exact (order_cases valid order applied).scannerSound h
  | partReset => exact Station.scannerSound_of_setting rfl rfl

theorem Station.countsScans_iff (st : Station) :
    st.countsScans = true ↔ st.line.scanner = .enabled ∧ st.state ≠ .suspended := by
  simp [Station.countsScans]

/-- A counted SCAN moves the counter below 32, or suspends the scanner at 32 (R104). -/
theorem Station.ScannerSound.moved {st u : Station} {n : Nat} {sc : ScannerState} (h : st.ScannerSound)
    (move : ScanMove st n sc) (errors : u.line.scanErrors = n) (scanner : u.line.scanner = sc)
    (setting : u.settings.scanner = st.settings.scanner) : u.ScannerSound := by
  cases move with
  | kept => exact h.kept scanner errors setting
  | good counts =>
    obtain ⟨below, off⟩ := h
    obtain ⟨enabled, -⟩ := st.countsScans_iff.mp counts
    unfold Station.ScannerSound
    rw [errors, scanner, setting]
    rw [enabled] at below ⊢
    exact ⟨(Nat.sub_le _ _).trans_lt below, enabled ▸ off⟩
  | bad counts below =>
    obtain ⟨-, off⟩ := h
    obtain ⟨enabled, -⟩ := st.countsScans_iff.mp counts
    unfold Station.ScannerSound
    rw [errors, scanner, setting]
    rw [enabled]
    exact ⟨below, enabled ▸ off⟩
  | last counts _ =>
    obtain ⟨-, off⟩ := h
    obtain ⟨enabled, -⟩ := st.countsScans_iff.mp counts
    rw [enabled] at off
    unfold Station.ScannerSound
    rw [errors, scanner, setting, ← off]
    exact ⟨rfl, by decide⟩

theorem LineMove.scannerSound {st u : Station} (move : LineMove st u) (h : st.ScannerSound) : u.ScannerSound := by
  cases move with
  | read r => exact h
  | parity => exact h
  | framing => exact h
  | @accepted message _ =>
    have a := Act.arrived st message
    obtain ⟨n, sc, line, scan⟩ := a.line
    refine h.moved scan ?_ ?_ (by rw [Act.finish_settings, a.settings])
    · rw [Act.finish_line_scanErrors, line]
    · rw [Act.finish_line_scanner, line]

/-! ### The end of an event -/

theorem Station.TimerSound.finish {a : Act} (h : a.station.TimerSound) (before : Image) :
    (a.finish before).TimerSound := h

theorem Station.ScannerSound.finish {a : Act} (h : a.station.ScannerSound) (before : Image) :
    (a.finish before).ScannerSound :=
  h.kept (Act.finish_line_scanner a before) (Act.finish_line_scanErrors a before) rfl

/-- Settles O7: what power-on gives, every event keeps and every message keeps, one command keeps
(`StationMove.keeps`); for the timer, a composed entry starts it in WAITING and everything that leaves WAITING stops
it. -/
theorem stepKeepsQueuesTimersAndScanners : Obligations.StepKeepsQueuesTimersAndScanners := by
  intro s t stepped
  obtain ⟨-, -, queue, timer⟩ := Station.reset_composer_sound
  obtain ⟨-, -, scanner, -⟩ := Station.reset_sound
  refine ⟨fun h i => ?_, fun h i => ?_, fun h i => ?_⟩
  · exact (step_station stepped i).keeps queue (fun move sound => move.keyQueue sound)
      (fun move sound => move.keyQueue sound) (h i)
  · exact (step_station stepped i).keeps timer (fun move sound => (move.timerSound sound).finish _)
      (fun move sound => move.timerSound sound) (h i)
  · exact (step_station stepped i).keeps scanner (fun move sound => (move.scannerSound sound).finish _)
      (fun move sound => move.scannerSound sound) (h i)

end Sys2Proof.Machine
end

section
/-! The rows in which an item is taken (R49 to R51, R118), and that every command goes on. -/

namespace Sys2Proof.Machine

/-! ## The rows in which an item is taken -/

theorem takeRow_of_beq (i : StationId) {j it : Item} (same : (j == it) = true) : takeRow i j = takeRow i it :=
  congrArg _ (eq_of_beq same)

/-- The row of an item takes the head of the queue when the head is an item of that row, and acts on it by its kind. -/
theorem exec_takeRow (i : StationId) (it : Item) (s : State) :
    ∃ want act, exec (takeRow i it) s = s.take i want act ∧ want it = true ∧
      (∀ j, want j = true → takeRow i j = takeRow i it) ∧ act it = itemAct s.library i it := by
  cases it with
  | char c =>
    refine ⟨_, _, rfl, rfl, fun j wanted => ?_, rfl⟩
    cases j with
    | char d => rfl
    | _ => cases wanted
  | edit k => cases k <;> exact ⟨_, _, rfl, beq_self_eq_true _, fun _ => takeRow_of_beq i, rfl⟩
  | move k => cases k <;> exact ⟨_, _, rfl, beq_self_eq_true _, fun _ => takeRow_of_beq i, rfl⟩
  | reset => exact ⟨_, _, rfl, beq_self_eq_true _, fun _ => takeRow_of_beq i, rfl⟩
  | intent k =>
    cases k with
    | function n =>
      refine ⟨_, _, rfl, rfl, fun j wanted => ?_, rfl⟩
      cases j with
      | intent k =>
        cases k with
        | function m => rfl
        | _ => cases wanted
      | _ => cases wanted
    | _ => exact ⟨_, _, rfl, beq_self_eq_true _, fun _ => takeRow_of_beq i, rfl⟩
  | scan text =>
    refine ⟨_, _, rfl, rfl, fun j wanted => ?_, rfl⟩
    cases j with
    | scan text => rfl
    | _ => cases wanted

/-- An item that the composer may take is one event at its station (R49). -/
theorem State.take_made {s : State} {i : StationId} {x : FormInstance} {it : Item}
    (head : (s.station i).head? = some (it, x)) {want : Item → Bool} (wanted : want it = true)
    (act : Item → Act → FormInstance → Act) {b : Act}
    (event : (Act.start (s.station i)).takeItem it x (act it) = b) (quiet : b.raised = [])
    (line : b.station.line = (s.station i).line) :
    ∃ t, s.take i want act = .next t ∧ s.EventsQuiet t ∧ s.Made t i b.station b.repaint b.tones ∧
      t.station i = b.finish (s.station i).image := by
  subst event
  exact ⟨_, State.take_some head wanted,
    congrArg EventUnit.drive (s.event_events_quiet i (fun a => a.takeItem it x (act it)) quiet),
    State.event_made (Station.LineKept.of_line line), State.event_station_self s i fun a => a.takeItem it x (act it)⟩

/-- An item taken in FREE that keys makes of its station what acting on it makes (R49). -/
theorem State.Takes.acts {s : State} {i : StationId} {x : FormInstance} {it : Item} {q : List Item}
    (h : s.Takes i x it q)
    (keyed : (Act.start { s.station i with queue := q }).Keyed
      (itemAct s.library i it (Act.start { s.station i with queue := q }) x)) :
    ∃ t, exec (takeRow i it) s = .next t ∧ s.EventsQuiet t ∧
      s.Made t i (itemAct s.library i it (Act.start { s.station i with queue := q }) x).station
        (itemAct s.library i it (Act.start { s.station i with queue := q }) x).repaint
        (itemAct s.library i it (Act.start { s.station i with queue := q }) x).tones := by
  obtain ⟨want, act, row, wanted, -, acts⟩ := exec_takeRow i it s
  rw [← acts] at keyed ⊢
  obtain ⟨t, run, quiet, made⟩ := h.quiet wanted act keyed
  exact ⟨t, row.trans run, quiet, made⟩

/-- Whatever the keyboard, an item taken off its queue is the only thing the start of its event changes. -/
theorem Act.start_dropHead {st : Station} {it : Item} {q : List Item} (queue : st.queue = it :: q) :
    (Act.start st).dropHead = Act.start { st with queue := q } := by
  simp only [Act.dropHead, Act.start, queue, List.tail_cons]

/-! ## RESET (R50, R51) -/

/-- A RESET acts alike in every keyboard state in which it is taken. -/
theorem Act.takeItem_reset (a : Act) (x : FormInstance) :
    (a.takeItem .reset x fun a x => a.reset x) = a.dropHead.reset x := by
  unfold Act.takeItem
  split <;> rfl

/-- Settles O53: a RESET that may be taken is one event, the same in FREE, INHIBITED and TIMED-OUT. -/
theorem resetFreesTheKeyboard : Obligations.ResetFreesTheKeyboard := by
  intro i s x q active form queue settled keyboard
  have takes : (s.station i).keyboard.takes = true := by
    obtain free | ⟨r, inhibited⟩ | late := keyboard
    · rw [free]; rfl
    · rw [inhibited]; rfl
    · rw [late]; rfl
  obtain ⟨t, run, quiet, made, -⟩ := State.take_made (Station.head?_of active form queue takes settled)
    (want := (· == .reset)) rfl (fun _ a x => a.reset x) (Act.takeItem_reset _ x) rfl rfl
  rw [Act.start_dropHead queue] at made
  exact ⟨t, run, quiet, made⟩

/-! ## Items discarded (R50, R53) -/

theorem Act.takeItem_discarded {a : Act} {it : Item} (x : FormInstance) (act : Act → FormInstance → Act)
    (busy : a.station.keyboard ≠ .free) (other : it ≠ .reset) : a.takeItem it x act = a.dropHead.ask .short := by
  unfold Act.takeItem
  split
  · exact absurd (by assumption) busy
  · exact if_neg other
  · exact if_neg other
  · exact if_neg other
  · exact if_neg other

/-- Settles O54: outside FREE an item that may be taken leaves the queue and asks a short tone, whatever it is. -/
theorem itemsAreDiscardedOutsideFree : Obligations.ItemsAreDiscardedOutsideFree := by
  intro i s x it q active form queue settled keyboard other pictured
  have takes : (s.station i).keyboard.takes = true ∧ (s.station i).keyboard ≠ .free := by
    obtain ⟨r, inhibited⟩ | late := keyboard
    · rw [inhibited]; exact ⟨rfl, by simp⟩
    · rw [late]; exact ⟨rfl, by simp⟩
  obtain ⟨want, act, row, wanted, -, -⟩ := exec_takeRow i it s
  obtain ⟨t, run, quiet, made, left⟩ := State.take_made (Station.head?_of active form queue takes.1 settled) wanted act
    (Act.takeItem_discarded x (act it) takes.2 other) rfl rfl
  rw [Act.start_dropHead queue] at made left
  refine ⟨t, row.trans run, quiet, made, ?_, fun up on => ?_⟩
  · rw [left, pictured]
    exact composeImage_congr rfl rfl rfl rfl rfl rfl
  · rw [left]
    exact Act.finish_sounds up on (List.cons_ne_nil _ _) _

/-! ## Sends with an occupied slot (R116, R118) -/

/-- With an occupied slot every send key is refused alike. -/
theorem itemAct_occupied (l : Library) (i : StationId) (k : SendKey) {a : Act} (x : FormInstance)
    (occupied : a.station.slot.isSome = true) :
    itemAct l i (.intent k) a x = ((a.putForm { x with insert := false }).inhibit .pend).raise .entryOverrun := by
  cases k <;> exact if_pos occupied

/-- Settles O57: an INTENT item is a send, and an occupied slot refuses it whatever its key. -/
theorem sendsToAnOccupiedSlotAreRefused : Obligations.SendsToAnOccupiedSlotAreRefused := by
  intro i s x k q taken occupied
  obtain ⟨want, act, row, wanted, -, acts⟩ := exec_takeRow i (.intent k) s
  have refused := itemAct_occupied s.library i k (a := Act.start { s.station i with queue := q }) x occupied
  rw [← acts] at refused
  obtain ⟨t, run, events, made⟩ := taken.made wanted act (by rw [refused]; rfl)
  rw [refused] at events made
  exact ⟨t, row.trans run, events, made⟩

/-! ## Every command goes on -/

theorem State.serve_pending (s : State) (tag : Byte) (payload : List Byte) (r : Request) :
    (s.serve tag payload r).pending = s.pending := by
  have polled (set : StationSet) (f : State → State) (kept : ∀ u, (f u).pending = u.pending) :
      (s.poll tag set f).pending = s.pending := by
    unfold State.poll
    split
    · rfl
    · exact kept _
  cases r with
  | stationReset set =>
    obtain ⟨-, -, pending, -⟩ := State.clears_frame (members set)
      (s.orders (fun _ _ a => .plain a.stationReset) (members set)).1 0xFF#8
    exact pending.trans (State.orders_pending _ _ _)
  | pollScan set => exact polled set _ fun u => State.collects_pending _ u
  | pollNext set =>
    refine polled set _ fun u => ?_
    unfold State.pollNext
    split <;> rfl
  | partReset => exact (s.resetPart_frame tag).2.1
  | stage _ | discard | commit _ | lock _ | status | stationStatus _ | identify | enableEvents _
  | clearEvents _ _ => rfl
  | _ => exact State.orders_pending _ _ _

theorem State.accept_pending (s : State) (tag kind : Byte) (payload : List Byte) (q : Option Request)
    (valid : ∀ r, q = some r → requestValid r = true) : (s.accept tag kind payload q).pending = s.pending := by
  obtain ⟨-, h⟩ | ⟨-, c, h⟩ | ⟨-, r, -, -, -, h⟩ := s.accept_cases tag kind payload q valid <;> rw [h]
  · rfl
  · rfl
  · exact State.serve_pending _ tag payload r

theorem State.request_pending (s : State) (tag : Byte) (r : Request) : (s.request tag r).pending = s.pending := by
  unfold State.request
  split
  · rfl
  · exact State.accept_pending _ _ _ _ _ fun _ => requestOption_valid

theorem State.hostByte_pending (s : State) (b : Byte) : (s.hostByte b).pending = s.pending := by
  unfold State.hostByte
  split
  · split <;> rfl
  · split
    · unfold State.lengthByte
      split <;> rfl
    · rfl
  · split <;> rfl
  · split
    · rfl
    · unfold State.frameArrives
      dsimp only
      split
      · exact State.accept_pending (s.modHost fun h => { h with framer := .hunt }) _ _ _ _ fun _ => decodeRequest_valid
      · rfl

/-- A command goes on: it answers a next state with the queue of commands as it was. -/
def GoesOn (s : State) (o : Host.Outcome State Fault Refusal) : Prop := ∃ t, o = .next t ∧ t.pending = s.pending

theorem State.goesOn_done {s t : State} (pending : t.pending = s.pending) : GoesOn s t.done := ⟨_, rfl, pending⟩

theorem State.goesOn_take (s : State) (i : StationId) (want : Item → Bool) (act : Item → Act → FormInstance → Act) :
    GoesOn s (s.take i want act) := by
  obtain ⟨it, x, -, -, h⟩ | h := s.take_cases i want act <;> rw [h]
  · exact State.goesOn_done rfl
  · exact ⟨s, rfl, rfl⟩

/-- A command whose event may not occur goes on either way (log 4). -/
theorem State.goesOn_ite {s t : State} {p : Prop} [Decidable p] (pending : t.pending = s.pending) :
    GoesOn s (if p then t.done else .next s) := by
  split
  · exact State.goesOn_done pending
  · exact ⟨s, rfl, rfl⟩

theorem exec_goesOn (c : Instr) (s : State) : GoesOn s (exec c s) := by
  cases c
  case powerOn => exact ⟨_, rfl, rfl⟩
  case responseTransmissionComplete =>
    show GoesOn s (execResponseTransmissionComplete s)
    unfold execResponseTransmissionComplete
    split
    · exact State.goesOn_done rfl
    · exact ⟨s, rfl, rfl⟩
  case holdOffExpiry | silenceTimerExpiry | transmissionComplete | responseTimerExpiry => exact State.goesOn_ite rfl
  case requestFrame b | frameLengthError b | hostLineByteReceived b => exact State.goesOn_done (s.hostByte_pending b)
  case key i code => exact State.goesOn_done (s.receive_frame i _).2.2
  case scan i good text => exact State.goesOn_done (s.receive_frame i _).2.2
  case attn i | alive i => exact State.goesOn_done (s.receive_frame i _).2.2
  case damagedMessage i bytes => exact State.goesOn_done (State.lineBytes_frame bytes s i).2.2
  case char | functionKey | scanItem | insert | delete | backspace | eraseField | eraseInput | tab | backtab | up | down
    | left | right | home | newline | pageNext | pagePrior | reset | enter | cancel | clear =>
    exact State.goesOn_take ..
  all_goals exact State.goesOn_done (State.request_pending ..)

/-- The row of an item that may not be taken leaves the state (R49, log 3). -/
theorem exec_takeRow_idle {i : StationId} {it : Item} {s : State}
    (idle : (s.station i).state ≠ .active ∨ (∃ x, (s.station i).form = some x ∧ x.settling = true) ∨
      (s.station i).keyboard = .waiting ∨ (s.station i).keyboard = .held ∨
      ∀ head q, (s.station i).queue = head :: q → takeRow i head ≠ takeRow i it) :
    exec (takeRow i it) s = .next s := by
  obtain ⟨want, act, row, -, same, -⟩ := exec_takeRow i it s
  obtain ⟨head, x, taken, wanted, -⟩ | none := s.take_cases i want act
  · obtain ⟨active, form, queue, takes, settled⟩ := Station.head?_some taken
    obtain inactive | ⟨y, holds, settling⟩ | waiting | held | other := idle
    · exact absurd active inactive
    · rw [form] at holds
      cases holds
      rw [settled] at settling
      cases settling
    · rw [waiting] at takes
      cases takes
    · rw [held] at takes
      cases takes
    · obtain ⟨q, queue⟩ := List.head?_eq_some_iff.mp queue
      exact absurd (same head wanted) (other head q queue)
  · exact row.trans none

/-- Settles O2: every command goes on (`exec_goesOn`), and the rows of events that cannot occur leave the state. -/
theorem everyCommandGoesOn : Obligations.EveryCommandGoesOn := by
  refine ⟨exec_goesOn, fun i it s => exec_takeRow_idle, fun i s => ⟨fun h => ?_, fun h => ?_, fun h => ?_⟩,
    fun s => ⟨fun h => ?_, fun h => ?_⟩⟩
  · exact if_neg (by rw [h]; exact Bool.false_ne_true)
  · exact if_neg (by rw [h]; exact Bool.false_ne_true)
  · exact if_neg (by rw [h]; exact Bool.false_ne_true)
  · exact if_neg (by rw [h]; exact Bool.false_ne_true)
  · show execResponseTransmissionComplete s = .next s
    unfold execResponseTransmissionComplete
    rw [h]

end Sys2Proof.Machine
end

section
/-! Messages of a station line: the line heard, an item offered to the key queue, a SCAN counted (R48, R104, R105, R157,
R159, R199). -/

namespace Sys2Proof.Machine

/-! ## A message that brings the line UP (R157, R159) -/

/-- A line unit that has accepted a message is `heard`, where a DOWN line held nothing. -/
theorem Station.hear_eq {st : Station} (sound : st.line.DownSound) : st.hear = { st with line := st.line.heard } := by
  unfold LineUnit.heard
  cases up : st.line.up with
  | true =>
    rw [Station.hear_up up, LineUnit.hear]
    simp [Config.silenceSeconds]
  | false => rw [Station.hear_down up sound]; rfl

/-- In the line's own fields a message heard is `heard`, whatever the line held. -/
theorem Station.heard_lineKept (st : Station) : ({ st with line := st.line.heard } : Station).LineKept st.hear := by
  unfold Station.hear LineUnit.heard
  cases up : st.line.up <;> simp [Station.LineKept, LineUnit.hear, Config.silenceSeconds]

/-- A line unit with its scanner error counter and its scanner state set. -/
def LineUnit.setScan (l : LineUnit) (n : Nat) (sc : ScannerState) : LineUnit :=
  { l with scanErrors := n, scanner := sc }

/-- Hearing a message leaves the scanner. -/
theorem LineUnit.heard_setScan (l : LineUnit) : l.heard.setScan l.scanErrors l.scanner = l.heard := by
  unfold LineUnit.heard
  split <;> rfl

theorem Station.hear_setScan (st : Station) : st.hear.line.setScan st.line.scanErrors st.line.scanner = st.hear.line :=
  (congrArg Station.line st.hear_kept).symm

theorem LineUnit.heard_starts {l : LineUnit} (down : l.up = false) : l.heard.StartsRepaint := by
  unfold LineUnit.heard
  rw [down]
  exact ⟨rfl, rfl, rfl, rfl⟩

/-- The start of an event with a message: the station heard, LINE-UP raised when the line was DOWN. -/
theorem Act.start_hear (st : Station) :
    (Act.start st).hear =
      ⟨{ st with line := st.hear.line }, [], false, if st.line.up = true then [] else [.lineUp]⟩ := by
  unfold Act.hear Act.start
  dsimp only
  split <;> rfl

/-! ## A repaint that has just started (R162 to R164) -/

/-- Before its first row, every span and every tone of the event leaves a repaint in progress as it is. -/
theorem Act.finish_startsRepaint {a : Act} (h : a.station.line.StartsRepaint) (repaint : a.repaint = false)
    (before : Image) : (a.finish before).line.StartsRepaint := by
  have spans : (imageSpans 1 before (composeImage a.station)).foldl LineUnit.handSpan a.station.line =
      a.station.line := by
    refine List.foldlRecOn (motive := (· = a.station.line)) _ _ rfl fun l same m mem => ?_
    obtain ⟨-, going, -⟩ := h
    rw [same]
    exact LineUnit.handSpan_discarded (.inr ⟨1, going, (mem_imageSpans.mp mem).1⟩)
  have tones : (a.tones.foldl LineUnit.askTone a.station.line).StartsRepaint := by
    refine List.foldlRecOn (motive := LineUnit.StartsRepaint) _ _ h fun l starts t _ => ?_
    unfold LineUnit.askTone
    split <;> exact starts
  have handed : (a.handed before (composeImage a.station)).StartsRepaint := by
    unfold Act.handed
    dsimp only
    rw [repaint, spans]
    split
    · exact tones
    · exact h
  obtain ⟨erase, -⟩ := id handed
  show (LineUnit.engine _ _ _).StartsRepaint
  rw [LineUnit.engine_waits (.inr (by rw [erase]; rfl))]
  exact handed

/-! ## What an accepted message leaves -/

/-- A message accepted at station `i` has left the composer as `after`, the line as `line`, and the tones asked; a
line that was DOWN starts its repaint. -/
def State.Heard (s t : State) (i : StationId) (after : Station) (line : LineUnit) (tones : List Tone) : Prop :=
  (t.station i).composer = after.composer ∧ ({ s.station i with line := line } : Station).LineKept (t.station i) ∧
    ((s.station i).line.DownSound → s.Left t i { after with line := line } false tones) ∧
    ((s.station i).line.DownSound → (s.station i).line.up = false → (t.station i).line.StartsRepaint)

theorem State.heard_of_finish {s t : State} {i : StationId} {after : Station} {n : Nat} {sc : ScannerState}
    {tones : List Tone} {raised : List StationEvent}
    (left : t.station i =
      (⟨{ after with line := (s.station i).hear.line.setScan n sc }, tones, false, raised⟩ :
        Act).finish (s.station i).image) :
    s.Heard t i after ((s.station i).line.heard.setScan n sc) tones := by
  have heard (sound : (s.station i).line.DownSound) :
      (s.station i).hear.line = (s.station i).line.heard := by rw [Station.hear_eq sound]
  refine ⟨?_, ?_, fun sound => ?_, fun sound down => ?_⟩
  · rw [left]
    rfl
  · obtain ⟨up, silence, parity, framing, -, -, receiver⟩ := (s.station i).heard_lineKept
    rw [left]
    refine Station.LineKept.trans ?_ (Act.finish_lineKept _ _)
    exact ⟨up, silence, parity, framing, rfl, rfl, receiver⟩
  · rw [heard sound] at left
    exact ⟨by rw [left]; rfl, left⟩
  · rw [left, heard sound]
    exact Act.finish_startsRepaint (LineUnit.heard_starts down) rfl _

/-- An undamaged message that decodes is one event at its station. -/
theorem State.receive_clean (s : State) (i : StationId) {type : Byte} {body : List Byte} {u : Upstream}
    (decodes : decodeUpstream type body = some u) :
    s.receive i (cleanMessage type body) = s.event i fun a => a.hear.handOn u := by
  have accepted : judge (cleanMessage type body) = .accepted u := by
    simp only [judge, cleanMessage, decodes]
    rfl
  simp only [State.receive, accepted]

/-- What an undamaged message does, from what it makes of an event that has heard it. -/
theorem State.receive_heard (s : State) (i : StationId) {type : Byte} {body : List Byte} {u : Upstream}
    (decodes : decodeUpstream type body = some u) {after : Station} {n : Nat} {sc : ScannerState} {tones : List Tone}
    {raised : List StationEvent}
    (event : (Act.start (s.station i)).hear.handOn u =
      ⟨{ after with line := (s.station i).hear.line.setScan n sc }, tones, false, raised⟩) :
    ∃ t, (s.receive i (cleanMessage type body)).done = .next t ∧ s.OthersKept t i ∧
      s.Heard t i after ((s.station i).line.heard.setScan n sc) tones ∧
      t.events = (raised.foldl (fun e k => e.raiseStation i k) s.events).drive := by
  refine ⟨_, congrArg State.done (s.receive_clean i decodes), s.event_othersKept i _ _,
    State.heard_of_finish (raised := raised) ?_, ?_⟩
  · rw [← event]
    exact State.event_station_self s i fun a => a.hear.handOn u
  · show EventUnit.drive (State.event s i _).events = _
    rw [State.event_events, event]

/-! ## Items offered to the queue (R48) -/

theorem Station.joins_iff (st : Station) : st.joins = true ↔
    (st.keyboard = .free ∨ (∃ r, st.keyboard = .inhibited r) ∨ st.keyboard = .timedOut ∨
      ((st.keyboard = .waiting ∨ st.keyboard = .held) ∧ st.settings.typeahead = true)) := by
  unfold Station.joins
  cases st.keyboard <;> simp

/-- The queue of a station to which an item is offered: it joins in ACTIVE, where the keyboard state lets it and the
queue has room. -/
def Station.joined (st : Station) (it : Item) : List Item :=
  if st.state = .active ∧ st.joins = true ∧ st.queue.length < 16 then st.queue ++ [it] else st.queue

/-- The tone of an item offered: a short one when it does not join in ACTIVE. -/
def Station.offerTones (st : Station) : List Tone :=
  if st.state = .active ∧ ¬(st.state = .active ∧ st.joins = true ∧ st.queue.length < 16) then [.short] else []

/-- The event of an item offered: KEY-OVERRUN when it finds the queue full. -/
def Station.offerRaises (st : Station) : List StationEvent :=
  if st.state = .active ∧ st.joins = true ∧ 16 ≤ st.queue.length then [.keyOverrun] else []

theorem Act.offer_eq (a : Act) (it : Item) :
    a.offer it =
      ⟨{ a.station with queue := a.station.joined it }, a.tones ++ a.station.offerTones, a.repaint,
        a.raised ++ a.station.offerRaises⟩ := by
  unfold Act.offer Station.joined Station.offerTones Station.offerRaises
  cases state : a.station.state with
  | noForm => simp
  | suspended => simp
  | active =>
    cases joins : a.station.joins with
    | false => simp [Act.ask]
    | true =>
      by_cases room : a.station.queue.length < 16
      · simp [room, Config.keyQueue]
      · simp [room, Config.keyQueue, Act.ask, Act.raise, Nat.le_of_not_lt room]

/-! ## Key codes (R199) -/

/-- The key codes that are neither characters nor function keys, with their items (R199). -/
def namedKeys : List (Byte × Item) :=
  [(0x80#8, .edit .insert), (0x81#8, .edit .delete), (0x82#8, .edit .backspace), (0x83#8, .edit .eraseField),
    (0x84#8, .edit .eraseInput), (0x90#8, .move .tab), (0x91#8, .move .backtab), (0x92#8, .move .up),
    (0x93#8, .move .down), (0x94#8, .move .left), (0x95#8, .move .right), (0x96#8, .move .home),
    (0x97#8, .move .newline), (0x98#8, .move .pageNext), (0x99#8, .move .pagePrior), (0xA0#8, .reset),
    (0xB0#8, .intent .enter), (0xBD#8, .intent .cancel), (0xBE#8, .intent .clear)]

theorem keyItem_iff (code : Byte) (it : Item) : keyItem code = some it ↔
    (0x20 ≤ code.toNat ∧ code.toNat ≤ 0x7E ∧ it = .char code) ∨
    (∃ n : Fin 12, code.toNat = 0xB1 + n.val ∧ it = .intent (.function n)) ∨
    (code, it) ∈ namedKeys := by
  unfold namedKeys
  constructor
  · intro item
    unfold keyItem at item
    split at item
    · next shown =>
      cases item
      obtain ⟨lo, hi⟩ := inRange_iff.mp shown
      exact .inl ⟨lo, hi, rfl⟩
    · right
      split at item
      all_goals cases item
      all_goals simp_all [← BitVec.toNat_inj]
  · rintro (⟨lo, hi, rfl⟩ | ⟨n, key, rfl⟩ | listed)
    · exact if_pos (inRange_iff.mpr ⟨lo, hi⟩)
    · have unshown : printable code ≠ true := fun shown => by
        have := (inRange_iff.mp shown).2
        omega
      unfold keyItem
      rw [if_neg unshown, key]
      fin_cases n <;> rfl
    · simp only [List.mem_cons, Prod.mk.injEq, List.not_mem_nil, or_false] at listed
      rcases listed with h | h | h | h | h | h | h | h | h | h | h | h | h | h | h | h | h | h | h <;>
        (obtain ⟨rfl, rfl⟩ := h; rfl)
/-! ## KEY (R48) -/

theorem EventUnit.raise_if (e : EventUnit) (i : StationId) (k : StationEvent) (p : Prop) [Decidable p] :
    (if p then [k] else []).foldl (fun e k => e.raiseStation i k) e = if p then e.raiseStation i k else e := by
  split <;> rfl

theorem EventUnit.raise_unless (e : EventUnit) (i : StationId) (k : StationEvent) (p : Prop) [Decidable p] :
    (if p then [] else [k]).foldl (fun e k => e.raiseStation i k) e = if p then e else e.raiseStation i k := by
  split <;> rfl

theorem Act.handOn_key (st : Station) (it : Item) :
    (Act.start st).hear.handOn (.key it) =
      ⟨{ st with
          queue := st.joined it
          line := st.hear.line.setScan st.line.scanErrors st.line.scanner },
        st.offerTones, false, (if st.line.up = true then [] else [.lineUp]) ++ st.offerRaises⟩ := by
  show (Act.start st).hear.offer it = _
  rw [Act.start_hear, Act.offer_eq, Station.hear_setScan]
  rfl

/-- Settles O41: the row hears the message (`State.receive_heard`) and offers its item (`Act.offer_eq`). -/
theorem keysJoinTheQueue : Obligations.KeysJoinTheQueue := by
  refine ⟨fun i code it s item => ?_, Station.joins_iff, keyItem_iff⟩
  have decodes : decodeUpstream 0x01#8 [code] = some (.key it) := by
    show (keyItem code).map Upstream.key = _
    rw [item]
    rfl
  obtain ⟨t, run, others, ⟨composer, kept, left, starts⟩, events⟩ :=
    s.receive_heard i decodes (after := { s.station i with queue := (s.station i).joined it })
      (Act.handOn_key (s.station i) it)
  rw [LineUnit.heard_setScan] at kept left
  refine ⟨t, run, others, composer, kept, left, starts, events.trans (congrArg EventUnit.drive ?_)⟩
  rw [List.foldl_append, Station.offerRaises, EventUnit.raise_unless, EventUnit.raise_if]

/-! ## SCAN (R104, R105) -/

theorem Act.scanMessage_uncounted {st : Station} (counts : st.countsScans = false) (good : Bool) (text : List Byte) :
    (Act.start st).hear.scanMessage good text =
      ⟨{ st with line := st.hear.line.setScan st.line.scanErrors st.line.scanner }, [], false,
        if st.line.up = true then [] else [.lineUp]⟩ := by
  have heard : (Act.start st).hear.station.countsScans = false := by
    rw [Act.hear_station, Act.start_station, st.hear_countsScans, counts]
  rw [Act.scanMessage, heard, Act.start_hear, Station.hear_setScan]
  rfl

/-- A counted good SCAN lowers the counter and offers its item (R104, R105). -/
theorem Act.scanMessage_good {st : Station} (counts : st.countsScans = true) (text : List Byte) :
    (Act.start st).hear.scanMessage true text =
      ⟨{ st with
          queue := st.joined (.scan text), line := st.hear.line.setScan (st.line.scanErrors - 1) st.line.scanner },
        st.offerTones, false, (if st.line.up = true then [] else [.lineUp]) ++ st.offerRaises⟩ := by
  have heard : (Act.start st).hear.station.countsScans = true := by
    rw [Act.hear_station, Act.start_station, st.hear_countsScans, counts]
  rw [Act.scanMessage, heard, Act.start_hear]
  show (Act.setScanner _ (st.hear.line.scanErrors - 1) st.hear.line.scanner).offer _ = _
  rw [Act.offer_eq, st.hear_scanErrors, st.hear_scanner]
  rfl

/-- A counted bad SCAN raises the counter, and at 32 suspends the scanner (R104). -/
theorem Act.scanMessage_bad {st : Station} (counts : st.countsScans = true) (text : List Byte) :
    (Act.start st).hear.scanMessage false text =
      ⟨{ st with
          line := st.hear.line.setScan (min (st.line.scanErrors + 1) 32)
            (if 31 ≤ st.line.scanErrors then .suspended else st.line.scanner) },
        [], false,
        (if st.line.up = true then [] else [.lineUp]) ++
          if 31 ≤ st.line.scanErrors then [.scannerSuspended] else []⟩ := by
  have heard : (Act.start st).hear.station.countsScans = true := by
    rw [Act.hear_station, Act.start_station, st.hear_countsScans, counts]
  rw [Act.scanMessage, heard, Act.start_hear]
  show Act.badScan _ = _
  unfold Act.badScan
  dsimp only
  rw [st.hear_scanErrors, st.hear_scanner, show Config.scanErrorLimit = 32 from rfl]
  by_cases last : 31 ≤ st.line.scanErrors
  · rw [if_neg (show ¬st.line.scanErrors + 1 < 32 by omega), if_pos last, if_pos last,
      Nat.min_eq_right (Nat.succ_le_succ last)]
    rfl
  · rw [if_pos (show st.line.scanErrors + 1 < 32 by omega), if_neg last, if_neg last, Nat.min_eq_left (by omega),
      List.append_nil]
    rfl

/-- What a SCAN message makes of an event that has heard it: an uncounted one nothing, a bad one a higher counter and at
32 a suspended scanner, a good one a lower counter and an item offered (R104, R105). -/
theorem Act.handOn_scan (st : Station) (good : Bool) (text : List Byte) {counted : Prop} [Decidable counted]
    (counts : st.countsScans = true ↔ counted) :
    (Act.start st).hear.handOn (.scan good text) =
      ⟨{ st with
          queue := if (counted ∧ good = true ∧ st.state = .active) ∧ st.joins = true ∧ st.queue.length < 16
            then st.queue ++ [.scan text] else st.queue
          line := st.hear.line.setScan
            (if ¬counted then st.line.scanErrors else if good = true then st.line.scanErrors - 1
              else min (st.line.scanErrors + 1) 32)
            (if counted ∧ good = false ∧ 31 ≤ st.line.scanErrors then .suspended else st.line.scanner) },
        if (counted ∧ good = true ∧ st.state = .active) ∧
            ¬((counted ∧ good = true ∧ st.state = .active) ∧ st.joins = true ∧ st.queue.length < 16)
          then [.short] else [], false,
        (if st.line.up = true then [] else [.lineUp]) ++
          ((if counted ∧ good = false ∧ 31 ≤ st.line.scanErrors then [.scannerSuspended] else []) ++
            if (counted ∧ good = true ∧ st.state = .active) ∧ st.joins = true ∧ 16 ≤ st.queue.length then [.keyOverrun]
            else [])⟩ := by
  show (Act.start st).hear.scanMessage good text = _
  by_cases c : counted
  · cases good with
    | true =>
      rw [Act.scanMessage_good (counts.mpr c)]
      simp [c, Station.joined, Station.offerTones, Station.offerRaises]
    | false =>
      rw [Act.scanMessage_bad (counts.mpr c)]
      simp [c]
  · rw [Act.scanMessage_uncounted (Bool.eq_false_iff.mpr (mt counts.mp c))]
    simp [c]

theorem decodeUpstream_scan {good : Bool} {text : List Byte} (fits : scanFits good text = true) :
    decodeUpstream 0x02#8 (scanStatus good :: text) = some (.scan good text) := by
  cases good with
  | true => exact if_pos fits
  | false => exact if_pos (of_decide_eq_true fits)

/-- Settles O42: the row hears the message and counts it (`Act.handOn_scan`). -/
theorem scansAreCounted : Obligations.ScansAreCounted := by
  intro i good text s fits
  obtain ⟨t, run, others, ⟨composer, kept, left, starts⟩, events⟩ :=
    s.receive_heard i (decodeUpstream_scan fits) (after := { s.station i with queue := ite _ _ _ })
      (Act.handOn_scan (s.station i) good text (s.station i).countsScans_iff)
  refine ⟨t, run, others, composer, kept, left, starts, events.trans (congrArg EventUnit.drive ?_)⟩
  rw [List.foldl_append, List.foldl_append, EventUnit.raise_unless, EventUnit.raise_if, EventUnit.raise_if]

end Sys2Proof.Machine
end

section
/-! Cursor keys: the exit check, the field under the cursor, and the moves that wrap (R54, R59, R60, R74, R81). -/

namespace Sys2Proof.Machine

/-! ## Tables of checks -/

theorem firstHolds_nil {α : Type} {c : α} : ¬FirstHolds [] c := by
  rintro ⟨a, p, b, rows, -⟩
  simp at rows

/-- The first row reports when it holds, and otherwise the rows after it do. -/
theorem firstHolds_cons {α : Type} {p : Prop} {c d : α} {rows : List (Prop × α)} :
    FirstHolds ((p, c) :: rows) d ↔ (p ∧ c = d) ∨ (¬p ∧ FirstHolds rows d) := by
  constructor
  · rintro ⟨a, q, b, split, before, holds⟩
    cases a with
    | nil =>
      cases split
      exact .inl ⟨holds, rfl⟩
    | cons r a =>
      cases split
      exact .inr ⟨before _ List.mem_cons_self, a, q, b, rfl, fun r mem => before r (List.mem_cons_of_mem _ mem), holds⟩
  · rintro (⟨holds, rfl⟩ | ⟨fails, a, q, b, rfl, before, holds⟩)
    · exact ⟨[], p, rows, rfl, by simp, holds⟩
    · exact ⟨(p, c) :: a, q, b, rfl, List.forall_mem_cons.mpr ⟨fails, before⟩, holds⟩

/-! ## The exit check (R59, R74, R81, R83) -/

theorem isLetter_iff (c : Byte) : isLetter c = true ↔
    (0x41 ≤ c.toNat ∧ c.toNat ≤ 0x5A) ∨ (0x61 ≤ c.toNat ∧ c.toNat ≤ 0x7A) := by
  simp only [isLetter, Bool.or_eq_true, Bool.and_eq_true, decide_eq_true_iff]

/-- What the class check reports, kind by kind (R74). -/
theorem classCheck_eq (d : ClassDef) (t : List Byte) :
    classCheck d t =
      match d.kind with
      | .text => none
      | .alpha => if ∃ c ∈ t, isLetter c = false ∧ c ≠ blank then some .char else none
      | .digits => if numericReading 0 false t = .format then some .format else none
      | .decimal => if numericReading d.places d.signed t = .format then some .format else none := by
  unfold classCheck readBy
  cases d.kind with
  | text => rfl
  | alpha =>
    by_cases stray : ∃ c ∈ t, isLetter c = false ∧ c ≠ blank
    · rw [if_pos stray]
      simpa [isBlank] using stray
    · rw [if_neg stray]
      simpa [isBlank, or_iff_not_imp_left] using stray
  | digits => simp
  | decimal => simp

/-- What the fill check reports (R81). -/
theorem fillCheck_eq (d : ClassDef) (t : List Byte) :
    fillCheck d t =
      if d.mandatoryFill = true ∧ (∃ c ∈ t, c = blank) ∧ ∃ c ∈ t, c ≠ blank then some .mandatory else none := by
  simp only [fillCheck, isBlank, Bool.and_eq_true, List.any_eq_true, and_assoc, beq_iff_eq, Bool.not_eq_true',
    beq_eq_false_iff_ne]

theorem exitMark_iff (d : ClassDef) (t : List Byte) (m : Mark) :
    exitMark (some d) t = some m ↔
      FirstHolds
        [(d.kind = .alpha ∧ ∃ c ∈ t, isLetter c = false ∧ c ≠ blank, .char),
          (d.kind = .digits ∧ numericReading 0 false t = .format, .format),
          (d.kind = .decimal ∧ numericReading d.places d.signed t = .format, .format),
          (d.mandatoryFill = true ∧ (∃ c ∈ t, c = blank) ∧ ∃ c ∈ t, c ≠ blank, .mandatory)] m := by
  have fill : fillCheck d t = some m ↔
      FirstHolds [(d.mandatoryFill = true ∧ (∃ c ∈ t, c = blank) ∧ ∃ c ∈ t, c ≠ blank, .mandatory)] m := by
    rw [fillCheck_eq, firstHolds_cons]
    simp [firstHolds_nil, ite_eq_iff]
  have orElse (p : Prop) [Decidable p] (k : Mark) :
      ((if p then some k else none).orElse fun _ => fillCheck d t) = some m ↔
        (p ∧ k = m) ∨ (¬p ∧ fillCheck d t = some m) := by
    split <;> simp_all
  rw [firstHolds_cons, firstHolds_cons, firstHolds_cons, ← fill]
  show ((classCheck d t).orElse fun _ => fillCheck d t) = some m ↔ _
  rw [classCheck_eq]
  cases kind : d.kind with
  | text => simp
  | alpha | digits | decimal =>
    dsimp only
    rw [orElse]
    simp

/-- What a guarded departure reports: the mark of a touched input field under the cursor that the destination leaves
(R59). -/
theorem FormInstance.departure_iff (x : FormInstance) (inside : FieldRec → Bool) (n : Nat) (m : Mark) :
    x.departure inside = some (n, m) ↔
      ∃ f, x.inputAtCursor = some f ∧ f.touched = true ∧ inside f = false ∧
        exitMark (x.classOf f) f.content = some m ∧ f.defn.number = n := by
  unfold FormInstance.departure
  cases here : x.inputAtCursor with
  | none => simp
  | some f =>
    have guarded : (f.touched && !inside f) = true ↔ f.touched = true ∧ inside f = false := by simp
    by_cases leaves : f.touched = true ∧ inside f = false
    · simp only [if_pos (guarded.mpr leaves), Option.map_eq_some_iff, Prod.mk.injEq, Option.some.injEq]
      constructor
      · rintro ⟨k, fails, rfl, rfl⟩
        exact ⟨f, rfl, leaves.1, leaves.2, fails, rfl⟩
      · rintro ⟨g, rfl, -, -, fails, rfl⟩
        exact ⟨m, fails, rfl, rfl⟩
    · simp only [if_neg (mt guarded.mp leaves), reduceCtorEq, false_iff]
      rintro ⟨g, same, touched, outside, -⟩
      cases same
      exact leaves ⟨touched, outside⟩

/-- A failing departure marks the field, inhibits the keyboard and asks a long tone; else the cursor moves (R59). -/
theorem FormInstance.guardedTo_fails {x : FormInstance} {dest n : Nat} {m : Mark}
    (fails : (x.departure fun f => f.covers dest) = some (n, m)) :
    x.guardedTo dest = x.mark n m ∧ x.guardedTones dest = [.long] ∧
      x.guardedKeyboard dest = .inhibited (markReason m) := by
  simp only [FormInstance.guardedTo, FormInstance.guardedTones, FormInstance.guardedKeyboard, fails, and_self]

theorem FormInstance.guardedTo_passes {x : FormInstance} {dest : Nat}
    (passes : (x.departure fun f => f.covers dest) = none) :
    x.guardedTo dest = { x with cursor := dest } ∧ x.guardedTones dest = [] ∧ x.guardedKeyboard dest = .free := by
  simp only [FormInstance.guardedTo, FormInstance.guardedTones, FormInstance.guardedKeyboard, passes, and_self]

/-! ## The field under the cursor (R54) -/

theorem FieldRec.covers_iff (f : FieldRec) (p : Nat) :
    f.covers p = true ↔ f.start ≤ p ∧ p < f.start + f.defn.length := by
  simp only [FieldRec.covers, Bool.and_eq_true, decide_eq_true_iff]

theorem FormInstance.inputAtCursor_some {x : FormInstance} {f : FieldRec} (here : x.inputAtCursor = some f) :
    f ∈ x.fields ∧ f.defn.page = x.page ∧ f.covers x.cursor = true ∧ f.kind = .input := by
  unfold FormInstance.inputAtCursor FormInstance.fieldAt at here
  split at here
  · next g found =>
    split at here
    · next input =>
      cases here
      have lies := List.find?_some found
      rw [Bool.and_eq_true, beq_iff_eq] at lies
      exact ⟨List.mem_of_find?_eq_some found, lies.1, lies.2, f.isInput_iff.mp input⟩
    · cases here
  · cases here

theorem FormInstance.inputAtCursor_of {x : FormInstance} {f : FieldRec} (mem : f ∈ x.fields)
    (page : f.defn.page = x.page) (covers : f.covers x.cursor = true) (input : f.kind = .input)
    (only : ∀ g ∈ x.fields, g.defn.page = x.page → g.covers x.cursor = true → g = f) : x.inputAtCursor = some f := by
  have found : x.fieldAt x.cursor = some f := by
    cases here : x.fieldAt x.cursor with
    | none => exact absurd (List.find?_eq_none.mp here f mem) (by simp [page, covers])
    | some g =>
      have lies := List.find?_some here
      rw [Bool.and_eq_true, beq_iff_eq] at lies
      rw [only g (List.mem_of_find?_eq_some here) lies.1 lies.2]
  simp only [FormInstance.inputAtCursor, found, if_pos (f.isInput_iff.mpr input)]

/-! ## Wrapping moves (R60) -/

section Wrapping

variable {p : Nat} (area : p < 1840)
include area

theorem upOf_eq : upOf p = if p < 80 then p + 1760 else p - 80 := by
  unfold upOf Config.positions
  split <;> omega

theorem downOf_eq : downOf p = if p < 1760 then p + 80 else p - 1760 := by
  unfold downOf Config.positions
  split <;> omega

theorem leftOf_eq : leftOf p = if p = 0 then 1839 else p - 1 := by
  unfold leftOf Config.positions
  split <;> omega

theorem rightOf_eq : rightOf p = if p = 1839 then 0 else p + 1 := by
  unfold rightOf Config.positions
  split <;> omega

end Wrapping

/-- Settles O50: each key is a move (`State.Takes.movesTo`) to its wrapped destination, and what a guarded move does is
what the departure reports. -/
theorem cursorKeysMoveAndWrap : Obligations.CursorKeysMoveAndWrap := by
  refine ⟨fun i s x q area => ⟨fun taken => ?_, fun taken => ?_, fun taken => ?_, fun taken => ?_⟩, fun x n m => rfl,
    fun m => ?_, isLetter_iff, fun x dest n m => ⟨FormInstance.guardedTo_fails, FormInstance.guardedTo_passes⟩,
    FormInstance.departure_iff, fun x f => ⟨rfl, rfl, f.covers_iff, FormInstance.inputAtCursor_some,
      FormInstance.inputAtCursor_of⟩, fun t => ⟨rfl, fun d m => exitMark_iff d t m⟩⟩
  · rw [← upOf_eq area]
    exact taken.movesTo rfl (fun _ => rfl) rfl
  · rw [← downOf_eq area]
    exact taken.movesTo rfl (fun _ => rfl) rfl
  · rw [← leftOf_eq area]
    exact taken.movesTo rfl (fun _ => rfl) rfl
  · rw [← rightOf_eq area]
    exact taken.movesTo rfl (fun _ => rfl) rfl
  · cases m <;> rfl

end Sys2Proof.Machine
end

section
/-! Characters: the per-character test, placing, and the advance of the cursor (R55 to R58, R73). -/

namespace Sys2Proof.Machine

/-! ## Characters placed (R56, R57) -/

theorem placed_overtype {t : List Byte} {off : Nat} (inside : off < t.length) (c : Byte) :
    (placed false t off c).length = t.length ∧ (placed false t off c)[off]? = some c ∧
      ∀ n, n ≠ off → (placed false t off c)[n]? = t[n]? :=
  ⟨placed_length false inside c, List.getElem?_set_self inside, fun _ other => List.getElem?_set_ne other.symm⟩

theorem placed_insert {t : List Byte} {off : Nat} (inside : off < t.length) (c : Byte) :
    (placed true t off c).length = t.length ∧ (placed true t off c)[off]? = some c ∧
      (∀ n, n < off → (placed true t off c)[n]? = t[n]?) ∧
      ∀ n, off ≤ n → n + 1 < t.length → (placed true t off c)[n + 1]? = t[n]? := by
  have front : (t.take off).length = off := List.length_take_of_le (Nat.le_of_lt inside)
  refine ⟨placed_length true inside c, ?_, fun n before => ?_, fun n behind fits => ?_⟩
  · show (t.take off ++ c :: (t.drop off).dropLast)[off]? = some c
    rw [List.getElem?_append_right (Nat.le_of_eq front), front, Nat.sub_self]
    rfl
  · show (t.take off ++ c :: (t.drop off).dropLast)[n]? = t[n]?
    rw [List.getElem?_append_left (by omega), List.getElem?_take_of_lt before]
  · show (t.take off ++ c :: (t.drop off).dropLast)[n + 1]? = t[n]?
    rw [List.getElem?_append_right (by omega), front, Nat.sub_add_comm behind, List.getElem?_cons_succ,
      List.getElem?_dropLast, if_pos (by rw [List.length_drop]; omega), List.getElem?_drop, Nat.add_sub_cancel' behind]

/-! ## Folding (R73) -/

theorem foldChar_toNat (c : Byte) :
    (foldChar c).toNat = if 0x61 ≤ c.toNat ∧ c.toNat ≤ 0x7A then c.toNat - 0x20 else c.toNat := by
  unfold foldChar
  by_cases small : 0x61 ≤ c.toNat ∧ c.toNat ≤ 0x7A
  · rw [if_pos (by simpa using small), if_pos small]
    exact BitVec.toNat_sub_of_le (BitVec.le_def.mpr (show 0x20 ≤ c.toNat by omega))
  · rw [if_neg (by simpa using small), if_neg small]

theorem foldedFor_toNat (d : ClassDef) (c : Byte) :
    (foldedFor (some d) c).toNat =
      if d.fold = true ∧ 0x61 ≤ c.toNat ∧ c.toNat ≤ 0x7A then c.toNat - 0x20 else c.toNat := by
  unfold foldedFor
  cases fold : d.fold with
  | true => simpa [fold] using foldChar_toNat c
  | false => simp [fold]

/-! ## The per-character test (R55) -/

theorem isDigit_iff (c : Byte) : isDigit c = true ↔ 0x30 ≤ c.toNat ∧ c.toNat ≤ 0x39 := by
  simp only [isDigit, Bool.and_eq_true, decide_eq_true_iff]

/-- In insert mode every "." of the content counts against a second one (log 11). -/
theorem pointsAfter_insert (t : List Byte) (off : Nat) : pointsAfter true t off ≤ 1 ↔ point ∉ t := by
  have counts : pointsAfter true t off = t.count point + 1 := rfl
  rw [counts, ← List.count_eq_zero]
  omega

/-- Overtyping, every "." but the one at the offset counts. -/
theorem pointsAfter_overtype {t : List Byte} {off : Nat} (inside : off < t.length) :
    pointsAfter false t off ≤ 1 ↔ ∀ n, n ≠ off → t[n]? ≠ some point := by
  have counts : pointsAfter false t off = (t.eraseIdx off).count point + 1 := by
    show (t.set off point).count point = _
    rw [List.set_eq_take_append_cons_drop, if_pos inside, List.eraseIdx_eq_take_drop_succ, List.count_append,
      List.count_append, List.count_cons_self, Nat.add_assoc]
  have none : (t.eraseIdx off).count point = 0 ↔ ∀ n, n ≠ off → t[n]? ≠ some point := by
    rw [List.count_eq_zero, List.mem_eraseIdx_iff_getElem?]
    simp
  rw [counts, ← none]
  omega

/-- R55's table. -/
theorem admits_iff (insert : Bool) {t : List Byte} {off : Nat} (inside : off < t.length) (c : Byte) (d : ClassDef) :
    admits (some d) insert t off c = true ↔
      d.kind = .text ∨
        (d.kind = .alpha ∧
          (((0x41 ≤ c.toNat ∧ c.toNat ≤ 0x5A) ∨ (0x61 ≤ c.toNat ∧ c.toNat ≤ 0x7A)) ∨ c = blank)) ∨
        (d.kind = .digits ∧ 0x30 ≤ c.toNat ∧ c.toNat ≤ 0x39) ∨
        (d.kind = .decimal ∧
          ((0x30 ≤ c.toNat ∧ c.toNat ≤ 0x39) ∨ (c = minus ∧ d.signed = true) ∨
            (c = point ∧ 1 ≤ d.places ∧
              if insert = true then point ∉ t else ∀ n, n ≠ off → t[n]? ≠ some point))) := by
  have second : pointsAfter insert t off ≤ 1 ↔
      if insert = true then point ∉ t else ∀ n, n ≠ off → t[n]? ≠ some point := by
    cases insert with
    | true => exact pointsAfter_insert t off
    | false => exact pointsAfter_overtype inside
  rw [← second, ← isLetter_iff, ← isDigit_iff]
  unfold admits
  cases kind : d.kind with
  | text => simp [kind]
  | alpha => simp [kind, isBlank]
  | digits => simp [kind]
  | decimal =>
    simp [kind]
    tauto

/-! ## Entering a character (R55 to R58) -/

section Entering

variable (a : Act) {x : FormInstance} {f : FieldRec} (key : Byte)

theorem Act.enterChar_outside (outside : x.inputAtCursor = none) : a.enterChar x key = a.inhibit .prot := by
  simp only [Act.enterChar, outside]

theorem Act.enterChar_refused (here : x.inputAtCursor = some f)
    (refused : admits (x.classOf f) x.insert f.content (x.cursor - f.start) (foldedFor (x.classOf f) key) = false) :
    a.enterChar x key = a.failCheck x f.defn.number .char := by
  simp [Act.enterChar, here, refused]

theorem Act.enterChar_full (here : x.inputAtCursor = some f)
    (admitted : admits (x.classOf f) x.insert f.content (x.cursor - f.start) (foldedFor (x.classOf f) key) = true)
    (insert : x.insert = true) (full : f.content.getLast? ≠ some blank) : a.enterChar x key = a.inhibit .full := by
  have noRoom : (x.insert && !f.hasRoom) = true := by simp [insert, FieldRec.hasRoom, full]
  simp only [Act.enterChar, here, admitted, noRoom, Bool.not_true, Bool.false_eq_true, if_false, if_true]

theorem Act.enterChar_placed (here : x.inputAtCursor = some f)
    (admitted : admits (x.classOf f) x.insert f.content (x.cursor - f.start) (foldedFor (x.classOf f) key) = true)
    (room : x.insert = false ∨ f.content.getLast? = some blank) :
    a.enterChar x key =
      a.advance (x.edit f.defn.number
        (placed x.insert f.content (x.cursor - f.start) (foldedFor (x.classOf f) key)) fun _ => none) f
        (x.cursor - f.start) := by
  have fits : (x.insert && !f.hasRoom) = false := by
    obtain off | last := room
    · simp [off]
    · simp [FieldRec.hasRoom, last]
  simp only [Act.enterChar, here, admitted, fits, Bool.not_true, Bool.false_eq_true, if_false]

end Entering

/-- The cursor goes one position on, but from the last position of a SKIP field (R58). -/
theorem Act.advance_on (a : Act) (y : FormInstance) {f : FieldRec} {off : Nat}
    (within : off + 1 ≠ f.defn.length ∨ f.defn.skip = false) :
    a.advance y f off = a.putForm { y with cursor := rightOf y.cursor } := by
  refine if_neg fun last => ?_
  obtain inner | stay := within
  · exact inner last.1
  · rw [stay] at last
    exact Bool.noConfusion last.2

/-- From the last position of a SKIP field a guarded TAB is taken (R58). -/
theorem Act.advance_skips (a : Act) (y : FormInstance) {f : FieldRec} {off : Nat} (last : off + 1 = f.defn.length)
    (skip : f.defn.skip = true) (free : a.station.keyboard = .free) :
    a.advance y f off =
      { a with
        station := { a.station with
          form := some (y.guardedTo (y.tabFrom y.cursor)), keyboard := y.guardedKeyboard (y.tabFrom y.cursor) }
        tones := a.tones ++ y.guardedTones (y.tabFrom y.cursor) } :=
  (if_pos ⟨last, skip⟩).trans (Act.move_eq (a.putForm y) y _ free)

/-- Settles O48: what a CHAR makes of its station is `Act.enterChar` case by case. -/
theorem charactersAreEntered : Obligations.CharactersAreEntered := by
  refine ⟨fun i s x c q taken => ?_, fun t off c inside => ?_, fun c => ⟨rfl, fun d => foldedFor_toNat d c⟩,
    fun insert t off c inside => ⟨rfl, fun d => admits_iff insert inside c d⟩⟩
  · obtain ⟨-, -, -, free, -⟩ := id taken
    obtain ⟨t, run, quiet, made⟩ := taken.acts (Act.keyed_enterChar _ x c)
    dsimp only [itemAct] at made
    refine ⟨t, run, quiet, fun outside => ?_, fun f here => ⟨fun refused => ?_, fun admitted insert full => ?_,
      fun admitted room => ⟨fun within => ?_, fun last skip => ?_⟩⟩⟩
    · rw [Act.enterChar_outside _ c outside] at made
      exact made
    · rw [Act.enterChar_refused _ c here refused] at made
      exact made
    · rw [Act.enterChar_full _ c here admitted insert full] at made
      exact made
    · rw [Act.enterChar_placed _ c here admitted room, Act.advance_on _ _ within, FormInstance.edit_cursor] at made
      exact made
    · rw [Act.enterChar_placed _ c here admitted room, Act.advance_skips _ _ last skip free,
        FormInstance.edit_cursor] at made
      exact made
  · obtain ⟨length, here, others⟩ := placed_overtype inside c
    obtain ⟨lengthIn, hereIn, before, behind⟩ := placed_insert inside c
    exact ⟨length, lengthIn, here, hereIn, others, before, behind⟩

end Sys2Proof.Machine
end

section
/-! Edit keys (R63 to R67). -/

namespace Sys2Proof.Machine

/-! ## DELETE and ERASE-FIELD (R63, R65) -/

section Editing

variable (a : Act) {x : FormInstance} (change : List Byte → Nat → List Byte)

theorem Act.editField_outside (outside : x.inputAtCursor = none) : a.editField x change = a.inhibit .prot := by
  simp only [Act.editField, outside]

theorem Act.editField_inside {f : FieldRec} (here : x.inputAtCursor = some f) :
    a.editField x change = a.putForm (x.edit f.defn.number (change f.content (x.cursor - f.start)) id) := by
  simp only [Act.editField, here]

end Editing

/-- A key that edits the field under the cursor does so inside an input field, and is refused outside. -/
theorem State.Takes.edits {s : State} {i : StationId} {x : FormInstance} {it : Item} {q : List Item}
    (taken : s.Takes i x it q) (change : List Byte → Nat → List Byte)
    (key : ∀ a, itemAct s.library i it a x = a.editField x change) :
    ∃ t, exec (takeRow i it) s = .next t ∧ s.EventsQuiet t ∧
      (x.inputAtCursor = none →
        s.Made t i { s.station i with queue := q, keyboard := .inhibited .prot } false [.long]) ∧
      ∀ f, x.inputAtCursor = some f →
        s.Made t i { s.station i with
          queue := q, form := some (x.edit f.defn.number (change f.content (x.cursor - f.start)) id) } := by
  obtain ⟨t, run, quiet, made⟩ := taken.acts (key _ ▸ Act.keyed_editField _ x change)
  rw [key] at made
  refine ⟨t, run, quiet, fun outside => ?_, fun f here => ?_⟩
  · rw [Act.editField_outside _ change outside] at made
    exact made
  · rw [Act.editField_inside _ change here] at made
    exact made

/-! ## BACKSPACE (R64) -/

theorem Act.backspace_moves (a : Act) {x : FormInstance}
    (leaves : ∀ f, x.inputAtCursor = some f → f.covers (leftOf x.cursor) = false) :
    a.backspace x = a.move x (leftOf x.cursor) := by
  unfold Act.backspace
  split
  · next f here => exact if_neg (by rw [leaves f here]; exact Bool.false_ne_true)
  · rfl

theorem Act.backspace_deletes (a : Act) {x : FormInstance} {f : FieldRec} (here : x.inputAtCursor = some f)
    (inside : f.covers (leftOf x.cursor) = true) :
    a.backspace x = a.delete { x with cursor := leftOf x.cursor } := by
  simp only [Act.backspace, here, if_pos inside]

/-! ## ERASE-INPUT (R66) -/

/-- Erasing leaves the page, so HOME is taken on the page it erased. -/
theorem FormInstance.homeTo_eraseInputs (x : FormInstance) (which : FieldRec → Bool) :
    (x.eraseInputs which).homeTo = firstStart ((x.eraseInputs which).inputsOn x.page) := by
  unfold FormInstance.homeTo FormInstance.ring
  rw [FormInstance.eraseInputs_page]

/-- Settles O49: each edit key in FREE is the one action of its item (`State.Takes.acts`). -/
theorem editKeysChangeContents : Obligations.EditKeysChangeContents := by
  refine ⟨fun i s x q => ⟨fun taken => ?_, fun taken => ?_, fun taken => ?_⟩, fun i s x q area =>
    ⟨fun taken => ?_, fun taken => ?_⟩⟩
  · exact taken.acts (Act.keyed_putForm _ _)
  · exact taken.edits deleteAt fun _ => rfl
  · exact taken.edits eraseFrom fun _ => rfl
  · obtain ⟨-, -, -, free, -⟩ := id taken
    obtain ⟨t, run, quiet, made⟩ := taken.acts (Act.keyed_backspace _ x)
    dsimp only [itemAct] at made
    dsimp only
    rw [← leftOf_eq area]
    refine ⟨t, run, quiet, fun leaves => ?_, fun f here inside still => ?_⟩
    · rw [Act.backspace_moves _ leaves, Act.move_eq _ x _ free] at made
      exact made
    · rw [Act.backspace_deletes _ here inside, Act.delete, Act.editField_inside _ deleteAt still] at made
      exact made
  · obtain ⟨t, run, quiet, made⟩ := taken.acts (Act.keyed_putForm _ _)
    dsimp only [itemAct] at made
    rw [Act.eraseInput, FormInstance.homeTo_eraseInputs] at made
    exact ⟨t, run, quiet, made⟩

end Sys2Proof.Machine
end

section
/-! Scans: the route taken, the routed text placed, and the fallbacks (R107 to R113). -/

namespace Sys2Proof.Machine

/-! ## The Scan Router (R107 to R109) -/

/-- The must-match positions of a pattern, counted from `i`, hold the characters of the scan (R107 test 4). -/
theorem patternMatches_iff (mask : BitVec 8) {pattern text : List Byte} (fits : pattern.length ≤ text.length)
    (i : Nat) :
    patternMatches mask i pattern text = true ↔
      ∀ n c, pattern[n]? = some c → mask.getLsbD (i + n) = true → text[n]? = some c := by
  induction pattern generalizing text i with
  | nil => simp [patternMatches]
  | cons p pattern ih =>
    cases text with
    | nil => cases fits
    | cons c text =>
      rw [patternMatches, Bool.and_eq_true, ih (Nat.le_of_succ_le_succ fits)]
      constructor
      · rintro ⟨here, rest⟩ n d named must
        cases n with
        | zero =>
          cases named
          rw [show mask.getLsbD i = true from must] at here
          exact congrArg some (eq_of_beq here).symm
        | succ n => exact rest n d named (by rwa [Nat.add_right_comm, Nat.add_assoc])
      · intro all
        refine ⟨?_, fun n d named must => all (n + 1) d named (by rwa [← Nat.add_assoc, Nat.add_right_comm])⟩
        cases must : mask.getLsbD i with
        | false => rfl
        | true => exact beq_iff_eq.mpr (Option.some.inj (all 0 p rfl must)).symm

/-- A route passes the four tests of R107 on a scan for an instance of form `form`. -/
def RoutePasses (r : RouteDef) (form : Nat) (text : List Byte) : Prop :=
  (∀ n, r.form = some n → n = form) ∧ (r.length = 0 ∨ r.length = text.length) ∧
    r.pattern.length ≤ text.length ∧ ∀ n c, r.pattern[n]? = some c → r.mask.getLsbD n = true → text[n]? = some c

theorem routeMatches_iff (form : Nat) (text : List Byte) (r : RouteDef) :
    routeMatches form text r = true ↔ RoutePasses r form text := by
  have named : r.form.all (· == form) = true ↔ ∀ n, r.form = some n → n = form := by
    cases r.form <;> simp
  unfold routeMatches RoutePasses
  rw [Bool.and_eq_true, Bool.and_eq_true, Bool.and_eq_true, named, Bool.or_eq_true, beq_iff_eq, beq_iff_eq,
    decide_eq_true_iff, and_assoc, and_assoc]
  refine and_congr_right fun _ => and_congr_right fun _ => and_congr_right fun fits => ?_
  simpa using patternMatches_iff r.mask fits 0

section Routing

variable {routes : Table RouteDef} {x : FormInstance} {text : List Byte}

theorem FormInstance.routed_none (noRoute : ∀ e ∈ routes, ¬RoutePasses e.2 x.number text) :
    x.routed routes text = none := by
  have first : routes.find? (fun e => routeMatches x.number text e.2) = none :=
    List.find?_eq_none.mpr fun e mem => mt (routeMatches_iff _ _ _).mp (noRoute e mem)
  simp only [FormInstance.routed, routeOf, first, Option.map_none]

/-- The first route that passes is taken, to its target and with its text stripped (R107 to R109). -/
theorem FormInstance.routed_first {a b : Table RouteDef} {k : Nat} {r : RouteDef} (table : routes = a ++ (k, r) :: b)
    (before : ∀ e ∈ a, ¬RoutePasses e.2 x.number text) (passes : RoutePasses r x.number text) :
    x.routed routes text = (x.targetOf r).map fun f => (f, text.drop r.strip) := by
  have first : routes.find? (fun e => routeMatches x.number text e.2) = some (k, r) :=
    List.find?_eq_some_iff_append.mpr ⟨(routeMatches_iff _ _ _).mpr passes, a, b, table, fun e mem => by
      simpa using mt (routeMatches_iff _ _ _).mp (before e mem)⟩
  simp only [FormInstance.routed, routeOf, first, Option.map_some]

theorem FormInstance.targetOf_named {r : RouteDef} {f : FieldRec} (named : r.target ≠ 0)
    (found : x.field? r.target = some f) (input : f.kind = .input) : x.targetOf r = some f := by
  rw [FormInstance.targetOf, if_neg named, found]
  exact if_pos (f.isInput_iff.mpr input)

theorem FormInstance.targetOf_fixed {r : RouteDef} (named : r.target ≠ 0)
    (fixed : ∀ f, x.field? r.target = some f → f.kind = .fixed) : x.targetOf r = none := by
  rw [FormInstance.targetOf, if_neg named]
  split
  · next f found =>
    refine if_neg fun input => ?_
    have kind := f.isInput_iff.mp input
    rw [fixed f found] at kind
    cases kind
  · rfl

end Routing

/-! ## Routed placement (R110, R111) -/

/-- Running rules neither reads nor changes the cursor. -/
theorem FormInstance.runRules_setCursor (x : FormInstance) (p : Nat) (ns : List Nat) :
    FormInstance.runRules { x with cursor := p } ns = { x.runRules ns with cursor := p } := by
  induction ns generalizing x with
  | nil => rfl
  | cons n ns ih =>
    simp only [FormInstance.runRules]
    split
    · next r _ => exact ih (x.runRule r)
    · exact ih x

/-- The instance after a scan's text is placed in the field `f`, with the cursor at its start (R111). -/
def FormInstance.scanned (x : FormInstance) (f : FieldRec) (text : List Byte) : FormInstance :=
  { x.edit f.defn.number (padCut f.defn.length text) (fun _ => none) with cursor := f.start }

/-- Where the cursor was is lost. -/
theorem FormInstance.scanned_setCursor (x : FormInstance) (p : Nat) (f : FieldRec) (text : List Byte) :
    FormInstance.scanned { x with cursor := p } f text = x.scanned f text := by
  unfold FormInstance.scanned FormInstance.edit FormInstance.recompute
  exact congrArg (fun y : FormInstance => { y with cursor := f.start })
    (FormInstance.runRules_setCursor (x.modField _ _) p _)

/-- The instance on page `p`, its cursor left, settling as given when that is another page (R43, R44, R110). -/
def FormInstance.onPage (x : FormInstance) (p : Nat) (settling : Bool) : FormInstance :=
  if p = x.page then x
  else { x with page := p, visited := x.visited ||| BitVec.twoPow 4 (p - 1), settling := settling }

/-- After a page switch the text is placed as on the page, wherever the switch has put the cursor. -/
theorem FormInstance.scanned_turned {x : FormInstance} {f : FieldRec} (away : f.defn.page ≠ x.page) (up : Bool)
    (text : List Byte) :
    ((x.turnTo f.defn.page).settle up).scanned f text = (x.onPage f.defn.page up).scanned f text := by
  rw [FormInstance.onPage, if_neg away]
  exact FormInstance.scanned_setCursor { x with
    page := f.defn.page, visited := x.visited ||| BitVec.twoPow 4 (f.defn.page - 1), settling := up } _ f text

theorem Act.placeScan_eq (a : Act) (x : FormInstance) (f : FieldRec) (text : List Byte)
    (free : a.station.keyboard = .free) :
    a.placeScan x f text =
      { a with
        station := { a.station with
          form := some ((x.scanned f text).guardedTo ((x.scanned f text).tabFrom f.start))
          keyboard := (x.scanned f text).guardedKeyboard ((x.scanned f text).tabFrom f.start) }
        tones := a.tones ++ (x.scanned f text).guardedTones ((x.scanned f text).tabFrom f.start) } :=
  Act.move_eq (a.putForm (x.scanned f text)) (x.scanned f text) _ free

/-- A routed scan whose departure fails marks the field it leaves (R110). -/
theorem Act.route_fails (a : Act) {x : FormInstance} {f : FieldRec} (text : List Byte) {n : Nat} {m : Mark}
    (fails : x.departure (fun g => g.defn.number == f.defn.number) = some (n, m)) :
    a.route x f text = a.failCheck x n m := by
  simp only [Act.route, fails]

/-- Else its text is placed on the page of its target, whose repaint is asked when the page is turned (R110, R111). -/
theorem Act.route_passes (a : Act) {x : FormInstance} {f : FieldRec} (text : List Byte)
    (passes : x.departure (fun g => g.defn.number == f.defn.number) = none) (free : a.station.keyboard = .free)
    {z : FormInstance} (placed : (x.onPage f.defn.page a.station.line.up).scanned f text = z) :
    a.route x f text =
      { a with
        station := { a.station with
          form := some (z.guardedTo (z.tabFrom f.start)), keyboard := z.guardedKeyboard (z.tabFrom f.start) }
        repaint := a.repaint || decide (f.defn.page ≠ x.page)
        tones := a.tones ++ z.guardedTones (z.tabFrom f.start) } := by
  subst placed
  simp only [Act.route, passes]
  by_cases here : f.defn.page = x.page
  · rw [Act.toPage, if_pos here, Act.placeScan_eq a x f text free, FormInstance.onPage, if_pos here]
    simp [here]
  · rw [Act.toPage, if_neg here, ← FormInstance.scanned_turned here]
    refine (Act.placeScan_eq (Act.askRepaint (a.putForm _)) _ f text free).trans ?_
    simp [here]

/-! ## Scans that are not routed (R112, R113) -/

section Unrouted

variable (a : Act) {x : FormInstance} {routes : Table RouteDef} {text : List Byte}

theorem Act.scanItem_rejected (unrouted : x.routed routes text = none)
    (policy : a.station.settings.fallback = .reject) : a.scanItem routes x text = a.inhibit .route := by
  simp only [Act.scanItem, unrouted, Act.fallback, policy]

theorem Act.scanItem_wedged (unrouted : x.routed routes text = none) (policy : a.station.settings.fallback = .wedge) :
    a.scanItem routes x text = a.wedge text := by
  simp only [Act.scanItem, unrouted, Act.fallback, policy]

theorem Act.scanItem_routed {f : FieldRec} {stripped : List Byte} (routed : x.routed routes text = some (f, stripped)) :
    a.scanItem routes x text = a.route x f stripped := by
  simp only [Act.scanItem, routed]

theorem Act.wedge_stops (c : Byte) (cs : List Byte) (inhibited : a.station.keyboard ≠ .free) :
    a.wedge (c :: cs) = a := by
  rw [Act.wedge]
  split
  · next free _ => exact absurd free inhibited
  · rfl

theorem Act.wedge_enters (c : Byte) (cs : List Byte) (free : a.station.keyboard = .free)
    (form : a.station.form = some x) : a.wedge (c :: cs) = (a.enterChar x c).wedge cs := by
  simp only [Act.wedge, free, form]

end Unrouted

/-- Settles O58: a SCAN is routed (`Act.route_passes`) or falls back, its route is the first that passes
(`FormInstance.routed_first`), and the fallback enters characters as a CHAR does. -/
theorem scansAreRouted : Obligations.ScansAreRouted := by
  refine ⟨fun i s x text q taken => ?_, fun routes x text =>
    ⟨FormInstance.routed_none, fun a k r b table before passes => ?_⟩, fun a c cs => ⟨rfl, a.wedge_stops c cs, fun x => a.wedge_enters c cs⟩, fun i s x c q taken => ?_⟩
  · obtain ⟨-, -, -, free, -⟩ := id taken
    obtain ⟨t, run, quiet, made⟩ := taken.acts (Act.keyed_scanItem _ _ x text)
    dsimp only [itemAct] at made
    refine ⟨t, run, quiet, fun unrouted policy => ?_, fun unrouted policy => ?_, fun f stripped routed =>
      ⟨fun n m fails => ?_, fun passes => ?_⟩⟩
    · rw [Act.scanItem_rejected _ unrouted policy] at made
      exact made
    · rw [Act.scanItem_wedged _ unrouted policy] at made
      exact made
    · rw [Act.scanItem_routed _ routed, Act.route_fails _ stripped fails] at made
      exact made
    · rw [Act.scanItem_routed _ routed, Act.route_passes _ stripped passes free rfl] at made
      exact made
  · have routed := FormInstance.routed_first table before passes
    refine ⟨fun here => ?_, fun named fixed => ?_, fun f named found input => ?_⟩
    · rw [routed, FormInstance.targetOf, if_pos here]
    · rw [routed, FormInstance.targetOf_fixed named fixed]
      rfl
    · rw [routed, FormInstance.targetOf_named named found input]
      rfl
  · obtain ⟨t, run, -, made⟩ := taken.acts (Act.keyed_enterChar _ x c)
    exact ⟨t, run, made⟩

end Sys2Proof.Machine
end

section
/-! Numbers in fields: blanks around a content, the numerals that a content can hold, the decimal digits of a value, and
that what a computed field displays reads back (R75, R76, R96). -/

namespace Sys2Proof.Machine

/-! ## Blanks around a text -/

theorem isBlank_iff (c : Byte) : isBlank c = true ↔ c = blank := beq_iff_eq

theorem dropWhile_isBlank_head? (t : List Byte) : (t.dropWhile isBlank).head? ≠ some blank := fun head => by
  have other := List.head?_dropWhile_not isBlank t
  rw [head] at other
  exact absurd other (by decide)

theorem trimRight_getLast? (t : List Byte) : (trimRight t).getLast? ≠ some blank := by
  rw [trimRight, List.getLast?_reverse]
  exact dropWhile_isBlank_head? _

theorem exists_trimRight (t : List Byte) : ∃ n, t = trimRight t ++ List.replicate n blank := by
  refine ⟨(t.rtakeWhile isBlank).length, ?_⟩
  rw [← List.eq_replicate_of_mem fun c mem => (isBlank_iff c).mp (List.mem_rtakeWhile_imp mem)]
  exact List.rdropWhile_append_rtakeWhile.symm

theorem trimRight_append_blanks {t : List Byte} (last : t.getLast? ≠ some blank) (n : Nat) :
    trimRight (t ++ List.replicate n blank) = t := by
  induction n with
  | zero =>
    rw [List.replicate_zero, List.append_nil]
    exact List.rdropWhile_eq_self_iff.mpr fun nonempty is =>
      last (by rw [List.getLast?_eq_some_getLast nonempty, (isBlank_iff _).mp is])
  | succ n ih =>
    rw [List.replicate_succ', ← List.append_assoc]
    exact (List.rdropWhile_concat_pos isBlank _ blank rfl).trans ih

theorem dropWhile_blanks_append (n : Nat) (t : List Byte) :
    (List.replicate n blank ++ t).dropWhile isBlank = t.dropWhile isBlank :=
  List.dropWhile_append_of_pos fun c mem => (isBlank_iff c).mpr (List.eq_of_mem_replicate mem)

/-- A trimmed text is what stands between the blanks around it. -/
theorem trim_eq_iff {t core : List Byte} :
    trim t = core ↔
      (∃ before after, t = List.replicate before blank ++ core ++ List.replicate after blank) ∧
        core.head? ≠ some blank ∧ core.getLast? ≠ some blank := by
  constructor
  · rintro rfl
    obtain ⟨after, rest⟩ : ∃ after, t.dropWhile isBlank = trim t ++ List.replicate after blank :=
      exists_trimRight _
    have front : t.takeWhile isBlank = List.replicate (t.takeWhile isBlank).length blank :=
      List.eq_replicate_of_mem fun c mem => (isBlank_iff c).mp (List.mem_takeWhile_imp mem)
    refine ⟨⟨(t.takeWhile isBlank).length, after, ?_⟩, fun head => ?_, trimRight_getLast? _⟩
    · rw [← front, List.append_assoc, ← rest, List.takeWhile_append_dropWhile]
    · refine dropWhile_isBlank_head? t ?_
      rw [rest, List.head?_append, head, Option.some_or]
  · rintro ⟨⟨before, after, rfl⟩, head, last⟩
    rw [trim, List.append_assoc, dropWhile_blanks_append]
    cases core with
    | nil =>
      rw [List.nil_append, List.dropWhile_replicate, if_pos (by rfl)]
      rfl
    | cons c cs =>
      rw [List.cons_append, List.dropWhile_cons_of_neg fun is => head (congrArg some ((isBlank_iff c).mp is))]
      exact trimRight_append_blanks last after

theorem trim_eq_nil_iff {t : List Byte} : trim t = [] ↔ ∀ c ∈ t, c = blank := by
  rw [trim_eq_iff]
  constructor
  · rintro ⟨⟨before, after, rfl⟩, -⟩ c mem
    simp only [List.append_nil, List.mem_append, List.mem_replicate] at mem
    exact mem.elim And.right And.right
  · intro blanks
    exact ⟨⟨t.length, 0, by simpa using List.eq_replicate_of_mem blanks⟩, by simp, by simp⟩

/-! ## Numerals (R75, R76) -/

/-- The characters of a numeral: a "-" when it is negative, its whole part, and a "." with its fraction when it has
one. -/
def numeralText (negative dotted : Bool) (whole fraction : List Byte) : List Byte :=
  (if negative = true then [minus] else []) ++ whole ++ (if dotted = true then point :: fraction else [])

/-- What R75 asks of the digits and the "." of a numeral in a class with `places`. -/
structure Numeral (places : Nat) (dotted : Bool) (whole fraction : List Byte) : Prop where
  room : dotted = true → 1 ≤ places
  undotted : dotted = false → fraction = []
  digits : ∀ c ∈ whole ++ fraction, isDigit c = true
  nonempty : whole ++ fraction ≠ []
  fits : fraction.length ≤ places

theorem numeralText_negative (dotted : Bool) (whole fraction : List Byte) :
    numeralText true dotted whole fraction = minus :: numeralText false dotted whole fraction := rfl

section Numeral

variable {places : Nat} {dotted : Bool} {whole fraction : List Byte} (n : Numeral places dotted whole fraction)
include n

theorem Numeral.mem_unsigned {c : Byte} (mem : c ∈ numeralText false dotted whole fraction) :
    isDigit c = true ∨ c = point := by
  simp only [numeralText, Bool.false_eq_true, if_false, List.nil_append, List.mem_append] at mem
  obtain inWhole | inTail := mem
  · exact .inl (n.digits c (List.mem_append_left _ inWhole))
  · cases dotted with
    | false => cases inTail
    | true => exact (List.mem_cons.mp inTail).symm.imp_left fun mem => n.digits c (List.mem_append_right _ mem)

theorem Numeral.unsigned_ne_nil : numeralText false dotted whole fraction ≠ [] := by
  cases dotted with
  | false => simpa [numeralText, n.undotted rfl] using n.nonempty
  | true => simp [numeralText]

theorem Numeral.blank_notMem (negative : Bool) : blank ∉ numeralText negative dotted whole fraction := by
  have unsigned : blank ∉ numeralText false dotted whole fraction := fun mem =>
    absurd (n.mem_unsigned mem) (by decide)
  cases negative with
  | false => exact unsigned
  | true => simpa [numeralText_negative, show blank ≠ minus by decide] using unsigned

theorem Numeral.takeWhile_digits :
    (numeralText false dotted whole fraction).takeWhile isDigit = whole ∧
      (numeralText false dotted whole fraction).dropWhile isDigit =
        if dotted = true then point :: fraction else [] := by
  have digits : ∀ c ∈ whole, isDigit c = true := fun c mem => n.digits c (List.mem_append_left _ mem)
  have stops : isDigit point = false := by decide
  rw [numeralText, if_neg Bool.false_ne_true, List.nil_append, List.takeWhile_append_of_pos digits,
    List.dropWhile_append_of_pos digits]
  cases dotted <;> simp [stops]

/-- A numeral without its sign reads as its value. -/
theorem Numeral.readUnsigned (negative : Bool) :
    readUnsigned places negative (numeralText false dotted whole fraction) =
      .value (scaledValue places negative whole fraction) := by
  obtain ⟨take, drop⟩ := n.takeWhile_digits
  rw [Machine.readUnsigned, take, drop]
  cases dotted with
  | false =>
    obtain rfl := n.undotted rfl
    have nonempty : whole ≠ [] := by simpa using n.nonempty
    simp [nonempty]
  | true =>
    have digits : ∀ c ∈ fraction, isDigit c = true := fun c mem => n.digits c (List.mem_append_right _ mem)
    have nonempty : whole = [] → fraction ≠ [] := by simpa using n.nonempty
    simpa [n.room rfl, n.fits] using ⟨digits, nonempty⟩

end Numeral

/-- What reads as a value without a sign is a numeral without one. -/
theorem exists_numeral {places : Nat} {negative : Bool} {t : List Byte} {v : Int}
    (reads : readUnsigned places negative t = .value v) :
    ∃ dotted whole fraction, t = numeralText false dotted whole fraction ∧ Numeral places dotted whole fraction ∧
      v = scaledValue places negative whole fraction := by
  have split : t.takeWhile isDigit ++ t.dropWhile isDigit = t := List.takeWhile_append_dropWhile
  have digits : ∀ c ∈ t.takeWhile isDigit, isDigit c = true := fun c => List.mem_takeWhile_imp
  unfold readUnsigned at reads
  dsimp only at reads
  split at reads
  · next rest =>
    split at reads
    · cases reads
    · next nonempty =>
      cases reads
      refine ⟨false, t.takeWhile isDigit, [], ?_, ⟨nofun, fun _ => rfl, ?_, ?_, Nat.zero_le _⟩, rfl⟩
      · rw [rest] at split
        simpa [numeralText] using split.symm
      · simpa using digits
      · simpa using nonempty
  · next c fraction rest =>
    split at reads
    · next form =>
      cases reads
      simp only [Bool.and_eq_true, beq_iff_eq, decide_eq_true_iff, List.all_eq_true, Bool.not_eq_true',
        List.isEmpty_eq_false_iff] at form
      obtain ⟨⟨⟨⟨rfl, room⟩, all⟩, nonempty⟩, fits⟩ := form
      refine ⟨true, t.takeWhile isDigit, fraction, ?_, ⟨fun _ => room, nofun, ?_, nonempty, fits⟩, rfl⟩
      · rw [rest] at split
        exact split.symm
      · exact fun c mem => (List.mem_append.mp mem).elim (digits c) (all c)
    · cases reads

theorem readUnsigned_ne_blank (places : Nat) (negative : Bool) (t : List Byte) :
    readUnsigned places negative t ≠ .blank := by
  unfold readUnsigned
  dsimp only
  split <;> split <;> nofun

theorem numericReading_blank_iff {places : Nat} {signed : Bool} {t : List Byte} :
    numericReading places signed t = .blank ↔ ∀ c ∈ t, c = blank := by
  rw [← trim_eq_nil_iff, numericReading]
  cases trim t with
  | nil => simp
  | cons c u =>
    dsimp only
    split <;> simp [readUnsigned_ne_blank]

/-- A content reads as a value exactly when it is a numeral between blanks, signed only in a signed class (R75, R76). -/
theorem numericReading_value_iff {places : Nat} {signed : Bool} {t : List Byte} {v : Int} :
    numericReading places signed t = .value v ↔
      ∃ before after negative dotted whole fraction,
        t = List.replicate before blank ++ numeralText negative dotted whole fraction ++ List.replicate after blank ∧
        (negative = true → signed = true) ∧ Numeral places dotted whole fraction ∧
        v = scaledValue places negative whole fraction := by
  constructor
  · intro reads
    obtain ⟨⟨before, after, around⟩, -⟩ := trim_eq_iff.mp (rfl : trim t = trim t)
    unfold numericReading at reads
    split at reads
    · cases reads
    · next c u core =>
      rw [core] at around
      split at reads
      · next sign =>
        rw [Bool.and_eq_true, beq_iff_eq] at sign
        obtain ⟨signed, rfl⟩ := sign
        obtain ⟨dotted, whole, fraction, rfl, n, value⟩ := exists_numeral reads
        exact ⟨before, after, true, dotted, whole, fraction, around, fun _ => signed, n, value⟩
      · obtain ⟨dotted, whole, fraction, text, n, value⟩ := exists_numeral reads
        rw [text] at around
        exact ⟨before, after, false, dotted, whole, fraction, around, nofun, n, value⟩
  · rintro ⟨before, after, negative, dotted, whole, fraction, around, signed, n, rfl⟩
    have core : trim t = numeralText negative dotted whole fraction :=
      trim_eq_iff.mpr ⟨⟨before, after, around⟩, fun head => n.blank_notMem negative (List.mem_of_head? head),
        fun last => n.blank_notMem negative (List.mem_of_getLast? last)⟩
    rw [numericReading, core]
    cases negative with
    | true =>
      rw [numeralText_negative]
      dsimp only
      rw [if_pos (by rw [signed rfl]; rfl)]
      exact n.readUnsigned true
    | false =>
      obtain ⟨c, u, text⟩ := List.exists_cons_of_ne_nil n.unsigned_ne_nil
      have unsigned : c ≠ minus := fun is =>
        absurd (n.mem_unsigned (text ▸ List.mem_cons_self : c ∈ _)) (by rw [is]; decide)
      rw [text]
      dsimp only
      rw [if_neg (by simp [unsigned]), ← text]
      exact n.readUnsigned false

/-! ## The value of digits (R76) -/

theorem digitsValue_concat (t : List Byte) (d : Byte) :
    digitsValue (t ++ [d]) = digitsValue t * 10 + (d.toNat - 0x30) :=
  List.foldl_append

theorem digitsValue_append (a b : List Byte) :
    digitsValue (a ++ b) = digitsValue a * 10 ^ b.length + digitsValue b := by
  induction b using List.reverseRecOn with
  | nil => simp [digitsValue]
  | append_singleton b d ih =>
    rw [← List.append_assoc, digitsValue_concat, digitsValue_concat, ih, List.length_append, List.length_singleton,
      pow_succ]
    ring

theorem digitsValue_zeros (n : Nat) : digitsValue (List.replicate n zero) = 0 := by
  induction n with
  | zero => rfl
  | succ n ih => rw [List.replicate_succ', digitsValue_concat, ih]; rfl

/-- The digits read over the integers, where the difference with "0" is no truncated one. -/
theorem foldl_digits {ds : List Byte} (digits : ∀ c ∈ ds, isDigit c = true) :
    ds.foldl (fun (n : Int) d => 10 * n + ((d.toNat : Int) - 0x30)) 0 = (digitsValue ds : Int) := by
  induction ds using List.reverseRecOn with
  | nil => rfl
  | append_singleton ds d ih =>
    obtain ⟨low, -⟩ := (isDigit_iff d).mp (digits d List.mem_concat_self)
    rw [List.foldl_append, ih fun c mem => digits c (List.mem_append_left _ mem), digitsValue_concat, List.foldl_cons,
      List.foldl_nil]
    omega

theorem scaledValue_eq (places : Nat) (negative : Bool) (whole fraction : List Byte) :
    scaledValue places negative whole fraction =
      (if negative = true then -1 else 1) *
        ((digitsValue (whole ++ fraction) : Int) * 10 ^ (places - fraction.length)) := by
  have padded : digitsValue (whole ++ (fraction ++ List.replicate (places - fraction.length) zero)) =
      digitsValue (whole ++ fraction) * 10 ^ (places - fraction.length) := by
    rw [← List.append_assoc, digitsValue_append, digitsValue_zeros, List.length_replicate, Nat.add_zero]
  rw [scaledValue, padded]
  cases negative <;> simp

/-! ## Decimal digits (R96) -/

/-- The character of a decimal digit. -/
def digitByte (d : Nat) : Byte := byteOf (0x30 + d)

theorem digitByte_toNat {d : Nat} (small : d < 10) : (digitByte d).toNat = 0x30 + d := by
  rw [digitByte, byteOf, BitVec.toNat_ofNat]
  omega

theorem decimalAux_eq {fuel n : Nat} (pos : 0 < n) (enough : n < 10 ^ fuel) (acc : List Byte) :
    decimalAux fuel n acc = (Nat.digits 10 n).reverse.map digitByte ++ acc := by
  induction fuel generalizing n acc with
  | zero => omega
  | succ fuel ih =>
    rw [Nat.digits_def' (by decide) pos, List.reverse_cons, List.map_append, List.append_assoc]
    rw [decimalAux]
    split
    · next small =>
      rw [Nat.div_eq_of_lt small, Nat.digits_zero]
      rfl
    · exact ih (by omega) (by rw [pow_succ] at enough; omega) _

theorem decimal_pos {n : Nat} (pos : 0 < n) : decimal n = (Nat.digits 10 n).reverse.map digitByte := by
  have enough : n < 10 ^ (n.log2 + 1) := Nat.lt_log2_self.trans_le (Nat.pow_le_pow_left (by decide) _)
  rw [decimal, decimalAux_eq pos enough, List.append_nil]

theorem decimal_digits (n : Nat) : ∀ c ∈ decimal n, isDigit c = true := by
  obtain rfl | pos := Nat.eq_zero_or_pos n
  · decide
  · rw [decimal_pos pos]
    simp only [List.mem_map, List.mem_reverse]
    rintro c ⟨d, mem, rfl⟩
    have small : d < 10 := Nat.digits_lt_base (by decide) mem
    rw [isDigit_iff, digitByte_toNat small]
    omega

theorem decimal_ne_nil (n : Nat) : decimal n ≠ [] := by
  obtain rfl | pos := Nat.eq_zero_or_pos n
  · decide
  · simpa [decimal_pos pos] using Nat.digits_ne_nil_iff_ne_zero.mpr pos.ne'

/-- No leading zero but that of the number 0 itself. -/
theorem decimal_head? {n : Nat} (head : (decimal n).head? = some zero) : decimal n = [zero] := by
  obtain rfl | pos := Nat.eq_zero_or_pos n
  · rfl
  · have nonempty : Nat.digits 10 n ≠ [] := Nat.digits_ne_nil_iff_ne_zero.mpr pos.ne'
    have leading := Nat.getLast_digit_ne_zero 10 pos.ne'
    have small := Nat.digits_lt_base (by decide) (List.getLast_mem nonempty)
    rw [decimal_pos pos, List.head?_map, List.head?_reverse, List.getLast?_eq_some_getLast nonempty] at head
    have same : 0x30 + (Nat.digits 10 n).getLast nonempty = 0x30 + 0 :=
      (digitByte_toNat small).symm.trans (congrArg BitVec.toNat (Option.some.inj head))
    exact absurd (Nat.add_left_cancel same) leading

theorem digitsValue_digitBytes {ds : List Nat} (small : ∀ d ∈ ds, d < 10) :
    digitsValue (ds.reverse.map digitByte) = Nat.ofDigits 10 ds := by
  induction ds with
  | nil => rfl
  | cons d ds ih =>
    obtain ⟨digit, small⟩ := List.forall_mem_cons.mp small
    rw [List.reverse_cons, List.map_append, List.map_singleton, digitsValue_concat, ih small, Nat.ofDigits_cons,
      digitByte_toNat digit]
    omega

theorem digitsValue_decimal (n : Nat) : digitsValue (decimal n) = n := by
  obtain rfl | pos := Nat.eq_zero_or_pos n
  · rfl
  · rw [decimal_pos pos, digitsValue_digitBytes fun d => Nat.digits_lt_base (by decide), Nat.ofDigits_digits]

theorem decimal_length_le {n places : Nat} (pos : 1 ≤ places) (small : n < 10 ^ places) :
    (decimal n).length ≤ places := by
  obtain rfl | npos := Nat.eq_zero_or_pos n
  · exact pos
  · rw [decimal_pos npos, List.length_map, List.length_reverse]
    exact (Nat.digits_length_le_iff (by decide) n).mpr small

/-! ## What a computed field displays (R96) -/

/-- The digits after the "." of a display string. -/
def displayFraction (v : Int) (pr : Nat) : List Byte :=
  if pr = 0 then [] else padLeft pr zero (decimal (v.natAbs % 10 ^ pr))

theorem displayFraction_length (v : Int) (pr : Nat) : (displayFraction v pr).length = pr := by
  unfold displayFraction
  split
  · next none => exact none.symm
  · next places =>
    exact padLeft_length (decimal_length_le (Nat.pos_of_ne_zero places) (Nat.mod_lt _ (by positivity))) _

theorem digitsValue_displayFraction (v : Int) (pr : Nat) :
    digitsValue (displayFraction v pr) = v.natAbs % 10 ^ pr := by
  unfold displayFraction
  split
  · next none => rw [none, pow_zero, Nat.mod_one]; rfl
  · rw [padLeft, digitsValue_append, digitsValue_zeros, Nat.zero_mul, Nat.zero_add, digitsValue_decimal]

/-- A display string is a numeral. -/
theorem displayString_eq (v : Int) (pr : Nat) :
    displayString v pr =
      numeralText (decide (v < 0)) (decide (pr ≠ 0)) (decimal (v.natAbs / 10 ^ pr)) (displayFraction v pr) := by
  by_cases none : pr = 0 <;> simp [displayString, numeralText, displayFraction, none]

theorem displayDigits (v : Int) (pr : Nat) :
    ∀ c ∈ decimal (v.natAbs / 10 ^ pr) ++ displayFraction v pr, isDigit c = true := by
  have fraction : ∀ c ∈ displayFraction v pr, isDigit c = true := by
    intro c mem
    unfold displayFraction at mem
    split at mem
    · cases mem
    · obtain pad | digit := List.mem_append.mp mem
      · rw [List.eq_of_mem_replicate pad]; rfl
      · exact decimal_digits _ c digit
  exact fun c mem => (List.mem_append.mp mem).elim (decimal_digits _ c) (fraction c)

theorem display_numeral (v : Int) (pr : Nat) :
    Numeral pr (decide (pr ≠ 0)) (decimal (v.natAbs / 10 ^ pr)) (displayFraction v pr) where
  room dotted := Nat.pos_of_ne_zero (of_decide_eq_true dotted)
  undotted undotted := List.length_eq_zero_iff.mp
    ((displayFraction_length v pr).trans (not_not.mp (of_decide_eq_false undotted)))
  digits := displayDigits v pr
  nonempty empty := decimal_ne_nil _ (List.append_eq_nil_iff.mp empty).1
  fits := (displayFraction_length v pr).le

theorem display_scaledValue (v : Int) (pr : Nat) :
    scaledValue pr (decide (v < 0)) (decimal (v.natAbs / 10 ^ pr)) (displayFraction v pr) = v := by
  have digits : digitsValue (decimal (v.natAbs / 10 ^ pr) ++ displayFraction v pr) = v.natAbs := by
    rw [digitsValue_append, displayFraction_length, digitsValue_decimal, digitsValue_displayFraction]
    exact Nat.div_add_mod' _ _
  rw [scaledValue_eq, digits, displayFraction_length, Nat.sub_self, pow_zero, mul_one]
  simp only [decide_eq_true_iff]
  split <;> omega

/-- A display string with blanks before it reads back as its value. -/
theorem numericReading_display (v : Int) (pr n : Nat) :
    numericReading pr true (padLeft n blank (displayString v pr)) = .value v := by
  refine numericReading_value_iff.mpr ⟨n - (displayString v pr).length, 0, _, _, _, _, ?_, fun _ => rfl,
    display_numeral v pr, (display_scaledValue v pr).symm⟩
  rw [← displayString_eq, List.replicate_zero, List.append_nil]
  rfl

theorem displayValue_value {v : Int} {pr len : Nat} {t : List Byte} (shows : displayValue v pr len = (.value v, t)) :
    (displayString v pr).length ≤ len ∧ t = padLeft len blank (displayString v pr) := by
  unfold displayValue at shows
  dsimp only at shows
  split at shows
  · next fits => exact ⟨fits, (Prod.mk.inj shows).2.symm⟩
  · cases shows

/-- Settles O60: a display string is a numeral (`display_numeral`), and a content reads as a value exactly when it is
one between blanks (`numericReading_value_iff`). -/
theorem displaysReadBack : Obligations.DisplaysReadBack := by
  refine ⟨fun v pr len t _ shows => ?_, fun v pr => ?_, fun places signed t =>
    ⟨numericReading_blank_iff, fun v => ?_⟩⟩
  · obtain ⟨fits, rfl⟩ := displayValue_value shows
    exact ⟨padLeft_length fits blank, numericReading_display v pr len⟩
  · refine ⟨decimal (v.natAbs / 10 ^ pr), displayFraction v pr, ?_, decimal_ne_nil _,
      fun c mem => (isDigit_iff c).mp (displayDigits v pr c mem), decimal_head?, displayFraction_length v pr⟩
    rw [displayString_eq]
    by_cases none : pr = 0 <;> simp [numeralText, none, minus, point]
  · rw [numericReading_value_iff]
    constructor
    · rintro ⟨before, after, negative, dotted, whole, fraction, rfl, signed, n, rfl⟩
      refine ⟨before, after, negative, dotted, whole, fraction, rfl, signed, n.room, n.undotted,
        fun c mem => (isDigit_iff c).mp (n.digits c mem), n.nonempty, n.fits, ?_⟩
      rw [foldl_digits n.digits, scaledValue_eq]
    · rintro ⟨before, after, negative, dotted, whole, fraction, rfl, signed, room, undotted, range, nonempty, fits,
        rfl⟩
      have digits : ∀ c ∈ whole ++ fraction, isDigit c = true := fun c mem => (isDigit_iff c).mpr (range c mem)
      refine ⟨before, after, negative, dotted, whole, fraction, rfl, signed,
        ⟨room, undotted, digits, nonempty, fits⟩, ?_⟩
      rw [foldl_digits digits, scaledValue_eq]

end Sys2Proof.Machine
end

section
/-! Full sends: the judgment of every input field, the fields in the order of page and start, and the entry composed or
the first failing field shown (R74, R78, R80, R81, R84, R116, R119 to R123). -/

namespace Sys2Proof.Machine

/-! ## Tables of checks -/

/-- `o` is what the first of the rows that holds gives, and nothing when no row holds. -/
def GivesFirst (rows : List (Prop × Mark)) (o : Option Mark) : Prop := ∀ m, o = some m ↔ FirstHolds rows m

theorem forall_not_firstHolds {rows : List (Prop × Mark)} : (∀ m, ¬FirstHolds rows m) ↔ ∀ row ∈ rows, ¬row.1 := by
  induction rows with
  | nil => exact ⟨fun _ => nofun, fun _ _ => firstHolds_nil⟩
  | cons row rows ih =>
    obtain ⟨p, c⟩ := row
    simp only [List.forall_mem_cons, ← ih, firstHolds_cons]
    by_cases holds : p <;> simp [holds]

theorem firstHolds_append {rows more : List (Prop × Mark)} {m : Mark} :
    FirstHolds (rows ++ more) m ↔ FirstHolds rows m ∨ ((∀ row ∈ rows, ¬row.1) ∧ FirstHolds more m) := by
  induction rows with
  | nil => simp [firstHolds_nil]
  | cons row rows ih =>
    obtain ⟨p, c⟩ := row
    rw [List.cons_append, firstHolds_cons, firstHolds_cons, ih, List.forall_mem_cons]
    by_cases holds : p <;> simp [holds]

/-- Checks one after another report what their tables joined do. -/
theorem GivesFirst.orElse {rows more : List (Prop × Mark)} {o p : Option Mark} (first : GivesFirst rows o)
    (second : GivesFirst more p) : GivesFirst (rows ++ more) (o.orElse fun _ => p) := by
  intro m
  rw [firstHolds_append, ← first m, ← second m, ← forall_not_firstHolds]
  simp only [← first _]
  cases o <;> simp

/-! ## The judgment of a content (R74, R78, R80, R81, R84) -/

/-- `t` reads as the value `v` by a class of digits or of decimals (R75, R77). -/
def ReadsAs (d : ClassDef) (t : List Byte) (v : Int) : Prop :=
  (d.kind = .digits ∧ numericReading 0 false t = .value v) ∨
    (d.kind = .decimal ∧ numericReading d.places d.signed t = .value v)

theorem readBy_value_iff {d : ClassDef} {t : List Byte} {v : Int} : readBy d t = some (.value v) ↔ ReadsAs d t v := by
  unfold readBy ReadsAs
  cases d.kind <;> simp

theorem classCheck_givesFirst (d : ClassDef) (t : List Byte) :
    GivesFirst
      [(d.kind = .alpha ∧ ∃ c ∈ t, isLetter c = false ∧ c ≠ blank, .char),
        (d.kind = .digits ∧ numericReading 0 false t = .format, .format),
        (d.kind = .decimal ∧ numericReading d.places d.signed t = .format, .format)]
      (classCheck d t) := by
  intro m
  rw [firstHolds_cons, firstHolds_cons, firstHolds_cons, classCheck_eq]
  cases d.kind <;> simp [firstHolds_nil, ite_eq_iff]

theorem limitCheck_givesFirst (d : ClassDef) (t : List Byte) :
    GivesFirst
      [(∃ v low, ReadsAs d t v ∧ d.low = some low ∧ v < low, .rangeLow),
        (∃ v high, ReadsAs d t v ∧ d.high = some high ∧ high < v, .rangeHigh)]
      (limitCheck d t) := by
  intro m
  rw [firstHolds_cons, firstHolds_cons]
  simp only [← readBy_value_iff]
  unfold limitCheck
  split
  · next v reads =>
    simp [reads, firstHolds_nil, ite_eq_iff, Option.any_eq_true]
  · next unread =>
    have none : ∀ v, readBy d t ≠ some (.value v) := unread
    simp [none, firstHolds_nil]

theorem fillCheck_givesFirst (d : ClassDef) {t : List Byte} (keyed : ∃ c ∈ t, c ≠ blank) :
    GivesFirst [(d.mandatoryFill = true ∧ ∃ c ∈ t, c = blank, .mandatory)] (fillCheck d t) := by
  intro m
  rw [fillCheck_eq, firstHolds_cons]
  simp [firstHolds_nil, ite_eq_iff, keyed]

theorem sendMark_blank (d : ClassDef) {t : List Byte} (blanks : ∀ c ∈ t, c = blank) :
    sendMark (some d) t = if d.mandatoryEntry = true then some .mandatory else none := by
  have all : t.all isBlank = true := List.all_eq_true.mpr fun c mem => (isBlank_iff c).mpr (blanks c mem)
  simp [sendMark, entryCheck, all]

theorem sendMark_keyed (d : ClassDef) {t : List Byte} (keyed : ∃ c ∈ t, c ≠ blank) :
    sendMark (some d) t = (classCheck d t).orElse fun _ => (limitCheck d t).orElse fun _ => fillCheck d t := by
  obtain ⟨c, mem, other⟩ := keyed
  exact if_neg fun all => other ((isBlank_iff c).mp (List.all_eq_true.mp all c mem))

/-! ## The order of page and start (00_scope.md, Positions) -/

/-- Field `f` stands no later than field `g` in the order of page and start. -/
abbrev FieldRec.Before (f g : FieldRec) : Prop :=
  f.defn.page < g.defn.page ∨ (f.defn.page = g.defn.page ∧ f.start ≤ g.start)

theorem FieldRec.before_refl (f : FieldRec) : f.Before f := .inr ⟨rfl, le_rfl⟩

theorem FormInstance.byPlace_perm (x : FormInstance) : x.byPlace.Perm x.fields := List.perm_insertionSort _ _

theorem FormInstance.byPlace_pairwise (x : FormInstance) : x.byPlace.Pairwise FieldRec.Before := by
  have total (f g : FieldRec) : f.Before g ∨ g.Before f := by unfold FieldRec.Before; omega
  have trans (f g h : FieldRec) : f.Before g → g.Before h → f.Before h := by unfold FieldRec.Before; omega
  exact @List.pairwise_insertionSort _ _ _ ⟨total⟩ ⟨trans⟩ _

/-! ## The failing fields (R84, R119) -/

/-- An input field whose content is judged to fail, with its mark (R84). -/
def FormInstance.Fails (x : FormInstance) (f : FieldRec) (m : Mark) : Prop :=
  f.kind = .input ∧ sendMark (x.classOf f) f.content = some m

theorem FormInstance.mem_failing {x : FormInstance} {f : FieldRec} {m : Mark} :
    (f, m) ∈ x.failing ↔ f ∈ x.fields ∧ x.Fails f m := by
  rw [← x.byPlace_perm.mem_iff]
  simp [FormInstance.failing, FormInstance.Fails, FieldRec.isInput]

theorem FormInstance.failing_pairwise (x : FormInstance) : x.failing.Pairwise fun e e' => e.1.Before e'.1 := by
  have judged {f : FieldRec} {e : FieldRec × Mark}
      (fails : (if f.isInput then (sendMark (x.classOf f) f.content).map fun m => (f, m) else none) = some e) :
      e.1 = f := by
    split at fails
    · obtain ⟨m, -, rfl⟩ := Option.map_eq_some_iff.mp fails
      rfl
    · cases fails
  refine x.byPlace_pairwise.filterMap _ fun f g before e found e' found' => ?_
  rwa [judged found, judged found']

theorem FormInstance.failing_eq_nil_iff {x : FormInstance} : x.failing = [] ↔ ∀ f ∈ x.fields, ∀ m, ¬x.Fails f m := by
  rw [List.eq_nil_iff_forall_not_mem]
  exact ⟨fun none f mem m fails => none (f, m) (mem_failing.mpr ⟨mem, fails⟩),
    fun none e mem => none e.1 (mem_failing.mp mem).1 e.2 (mem_failing.mp mem).2⟩

/-- The first failing field stands before every other one. -/
theorem FormInstance.failing_cons {x : FormInstance} {f : FieldRec} {m : Mark} {rest : List (FieldRec × Mark)}
    (failing : x.failing = (f, m) :: rest) :
    f ∈ x.fields ∧ x.Fails f m ∧ ∀ g ∈ x.fields, ∀ m', x.Fails g m' → f.Before g := by
  obtain ⟨mem, fails⟩ := mem_failing.mp (failing ▸ List.mem_cons_self : (f, m) ∈ x.failing)
  have sorted := failing ▸ x.failing_pairwise
  refine ⟨mem, fails, fun g inForm m' alsoFails => ?_⟩
  have later : (g, m') ∈ (f, m) :: rest := failing ▸ mem_failing.mpr ⟨inForm, alsoFails⟩
  obtain same | inRest := List.mem_cons.mp later
  · cases same
    exact f.before_refl
  · exact (List.pairwise_cons.mp sorted).1 _ inRest

theorem FormInstance.markFailing_eq (x : FormInstance) :
    x.markFailing =
      { x with
        fields := x.fields.map fun f =>
          if f.kind = .input then
            { f with mark := (sendMark (x.classOf f) f.content).orElse fun _ => f.mark }
          else f } := by
  unfold FormInstance.markFailing
  congr 1
  refine List.map_congr_left fun f _ => ?_
  simp only [isInput_iff]
  split
  · cases sendMark (x.classOf f) f.content <;> rfl
  · rfl

/-! ## The entry (R121, R122) -/

/-- The target of a rule that is reported is the target of a rule. -/
theorem FormInstance.isComputed_and_reported (x : FormInstance) (f : FieldRec) :
    (x.isComputed f && reported x.defn.rules f.defn.number) =
      (f.defn.kind == .fixed && reported x.defn.rules f.defn.number) := by
  have target : reported x.defn.rules f.defn.number = true →
      (x.defn.rules.any fun r => r.target == f.defn.number) = true := by
    simp only [reported, List.any_eq_true, Bool.and_eq_true]
    rintro ⟨r, mem, same, -⟩
    exact ⟨r, mem, same⟩
  unfold FormInstance.isComputed isComputedDef
  cases report : reported x.defn.rules f.defn.number with
  | false => rw [Bool.and_false, Bool.and_false]
  | true => rw [target report, Bool.and_true]

theorem FormInstance.computedMembers_eq (x : FormInstance) :
    x.computedMembers =
      (x.byPlace.filter fun f => f.defn.kind == .fixed && reported x.defn.rules f.defn.number).filterMap fun f =>
        f.result.map fun r => ⟨f.defn.number, r, f.content.dropWhile isBlank⟩ := by
  simp only [FormInstance.computedMembers, x.isComputed_and_reported]

/-! ## What a full send does (R116, R119, R120, R123) -/

/-- ENTER and the function keys that are no short keys of the form are full sends (R116). -/
theorem itemAct_fullSend (l : Library) (i : StationId) {k : SendKey} {a : Act} {x : FormInstance}
    (full : k = .enter ∨ ∃ n, k = .function n ∧ x.defn.shortKeys.getLsbD n.val = false)
    (free : a.station.slot = none) :
    itemAct l i (.intent k) a x = a.fullSend i k { x with insert := false } := by
  have send (go : Act → FormInstance → Act) : a.send x go = go a { x with insert := false } := if_neg (by simp [free])
  obtain rfl | ⟨n, rfl, long⟩ := full
  · exact send fun a y => a.fullSend i .enter y
  · exact (send fun a y => a.functionSend i n y).trans (if_neg (ne_true_of_eq_false long))

/-- The instance after a failed full send: every failing field marked and the cursor at the first of them, on its page
(R119, R120). -/
def FormInstance.shownFailing (x : FormInstance) (f : FieldRec) (up : Bool) : FormInstance :=
  if f.defn.page = x.page then { x.markFailing with cursor := f.start }
  else { x.markFailing with
    page := f.defn.page
    visited := x.visited ||| BitVec.twoPow 4 (f.defn.page - 1)
    cursor := f.start
    settling := up }

theorem Act.failSend_eq (a : Act) (x : FormInstance) (f : FieldRec) (m : Mark) :
    a.failSend x f m =
      { a with
        station := { a.station with
          keyboard := .inhibited (markReason m), form := some (x.shownFailing f a.station.line.up) }
        tones := a.tones ++ [.long]
        repaint := a.repaint || decide (f.defn.page ≠ x.page) } := by
  unfold Act.failSend FormInstance.shownFailing
  dsimp only
  by_cases shown : f.defn.page = x.page
  · rw [if_pos shown, if_pos shown, decide_eq_false (not_not.mpr shown), Bool.or_false]
    rfl
  · rw [if_neg shown, if_neg shown, decide_eq_true shown, Bool.or_true]
    rfl

theorem Act.fullSend_passes (a : Act) (i : StationId) (k : SendKey) {x : FormInstance} (passes : x.failing = []) :
    a.fullSend i k x = a.compose i k true x := by
  rw [Act.fullSend, passes]

theorem Act.fullSend_fails (a : Act) (i : StationId) (k : SendKey) {x : FormInstance} {f : FieldRec} {m : Mark}
    {rest : List (FieldRec × Mark)} (fails : x.failing = (f, m) :: rest) : a.fullSend i k x = a.failSend x f m := by
  rw [Act.fullSend, fails]

theorem Act.fullSend_line (a : Act) (i : StationId) (k : SendKey) (x : FormInstance) :
    (a.fullSend i k x).station.line = a.station.line :=
  (a.fullSend_cases i k x).elim Act.Keyed.line Act.Composed.line

/-- An item taken in FREE leaves what acting on it makes of its station, and raises what that raises (R49). -/
theorem State.Takes.makes {s : State} {i : StationId} {x : FormInstance} {it : Item} {q : List Item}
    (taken : s.Takes i x it q) {b : Act}
    (acts : itemAct s.library i it (Act.start { s.station i with queue := q }) x = b)
    (line : b.station.line = (s.station i).line) :
    ∃ t, exec (takeRow i it) s = .next t ∧
      t.events = (b.raised.foldl (fun e k => e.raiseStation i k) s.events).drive ∧
      s.Made t i b.station b.repaint b.tones := by
  subst acts
  obtain ⟨want, act, row, wanted, -, acts⟩ := exec_takeRow i it s
  rw [← acts] at line ⊢
  obtain ⟨t, run, events, made⟩ := taken.made wanted act line
  exact ⟨t, row.trans run, events, made⟩

/-- Settles O55: a full send composes its entry, or shows the failing field that is first in the order of page and start
(`FormInstance.failing_cons`); a content is judged by the tables of R74, R78 and R81 one after another. -/
theorem fullSendsJudgeAndCompose : Obligations.FullSendsJudgeAndCompose := by
  refine ⟨fun i s x k q full taken free => ?_, fun x => ?_, fun t => ⟨exists_trimRight t, trimRight_getLast? t⟩,
    fun t => ⟨rfl, fun d => ⟨fun blanks => sendMark_blank d blanks, fun keyed => ?_⟩⟩⟩
  · obtain ⟨t, run, events, made⟩ := taken.makes (itemAct_fullSend s.library i full free) (Act.fullSend_line ..)
    refine ⟨t, run, fun passes => ?_, fun f m rest fails => ?_⟩
    · rw [Act.fullSend_passes _ i k (x := { x with insert := false }) passes] at events made
      obtain ⟨station, repaint, tones⟩ :=
        Act.compose_station (Act.start { s.station i with queue := q }) i k true { x with insert := false }
      rw [station, repaint, tones] at made
      rw [(Act.composed_compose ..).raised] at events
      exact ⟨events, made⟩
    · rw [Act.fullSend_fails _ i k (x := { x with insert := false }) fails, Act.failSend_eq] at events made
      exact ⟨events, made⟩
  · refine ⟨x.failing_eq_nil_iff, fun f m rest => x.failing_cons, x.markFailing_eq, x.byPlace_perm, x.byPlace_pairwise,
      fun i intent => ?_⟩
    exact congrArg (Entry.mk i intent x.page _ _ x.visited x.generation _) x.computedMembers_eq
  · rw [sendMark_keyed d keyed]
    exact (classCheck_givesFirst d t).orElse ((limitCheck_givesFirst d t).orElse (fillCheck_givesFirst d keyed))

end Sys2Proof.Machine
end

section
/-! Running rules (R5, R88, R98, R99): what it leaves of an instance, and why rules run in the computation order leave
every computed field current. -/

namespace Sys2Proof.Machine

/-! ## The rules of a form that passed validation (R5, R19) -/

/-- What running the rules of an instance relies on: each number stands for one rule, each target belongs to one rule,
no rule feeds itself on any path, and the instance holds their computation order. -/
structure FormInstance.Ruled (x : FormInstance) : Prop where
  numbers : (x.defn.rules.map Rule.number).Nodup
  targets : ∀ q ∈ x.defn.rules, ∀ r ∈ x.defn.rules, q.target = r.target → q = r
  acyclic : ∀ r ∈ x.defn.rules, ¬Relation.TransGen (Feeds x.defn.rules) r r
  order : Ordered x.defn.rules x.order

theorem FormInstance.CopySound.ruled {x : FormInstance} (copy : x.CopySound) : x.Ruled := by
  obtain ⟨-, passed, order⟩ := copy
  obtain ⟨level, -, rules, cycle⟩ := formOffence_eq_none.mp passed
  obtain ⟨-, numbers, -⟩ := formLevelOffence_eq_none.mp level
  have acyclic := (cycleItem_eq_none numbers).mp cycle
  have lower : ∀ q ∈ x.defn.rules, ∀ r ∈ x.defn.rules, q.number < r.number → q.target ≠ r.target := by
    intro q hq r hr
    have none := firstFailing_eq_none.mp (ruleOffence_eq_none.mp rules r hr)
    simp only [List.forall_mem_cons, List.any_eq_false, Bool.and_eq_true, decide_eq_true_eq, beq_iff_eq, not_and]
      at none
    exact none.2.2.1 q hq
  refine ⟨numbers, fun q hq r hr same => ?_, acyclic, order ▸ computationOrder_ordered numbers acyclic⟩
  obtain lt | same' | gt := Nat.lt_trichotomy q.number r.number
  · exact absurd same (lower q hq r hr lt)
  · exact rule_ext numbers hq hr same'
  · exact absurd same.symm (lower r hr q hq gt)

/-- Rule number `m` feeds no rule of number `n`. -/
def Unfed (rules : List Rule) (n m : Nat) : Prop :=
  ∀ q ∈ rules, q.number = m → ∀ r ∈ rules, r.number = n → q.target ∉ r.sources

/-- In a computation order no rule feeds one that stands before it (R5). -/
theorem Ordered.unfed {rules : List Rule} {order : List Nat} (h : Ordered rules order)
    (nodup : (rules.map Rule.number).Nodup) : order.Pairwise (Unfed rules) := by
  obtain ⟨perm, places⟩ := h
  have once := perm.nodup_iff.mpr nodup
  have suffixes : ∀ a b, order = a ++ b → b.Pairwise (Unfed rules) := by
    intro a b
    induction b generalizing a with
    | nil => exact fun _ => .nil
    | cons n b ih =>
      intro split
      refine List.pairwise_cons.mpr ⟨fun m hm q hq number r hr here feed => ?_, ih (a ++ [n]) (by simp [split])⟩
      have before : m ∈ a := number ▸ (places a n b split r hr).1 here q hq feed
      rw [split] at once
      exact (List.nodup_append.mp once).2.2 m before m (List.mem_cons_of_mem _ hm) rfl
  exact suffixes [] order rfl

theorem FormInstance.Sound.ruled {x : FormInstance} (h : x.Sound) : x.Ruled := by
  obtain ⟨copy, -⟩ := h
  exact copy.ruled

section Ruled

variable {x : FormInstance} (h : x.Ruled)
include h

theorem FormInstance.Ruled.setFields (fields : List FieldRec) : FormInstance.Ruled { x with fields := fields } :=
  ⟨h.numbers, h.targets, h.acyclic, h.order⟩

theorem FormInstance.Ruled.mem_order {r : Rule} (hr : r ∈ x.defn.rules) : r.number ∈ x.order :=
  h.order.1.mem_iff.mpr (List.mem_map_of_mem hr)

theorem FormInstance.Ruled.target_not_source {r : Rule} (hr : r ∈ x.defn.rules) : r.target ∉ r.sources :=
  fun feed => h.acyclic r hr (.single ⟨hr, hr, feed⟩)

/-- The rule found under a rule's number is that rule. -/
theorem FormInstance.Ruled.find_number {r : Rule} (hr : r ∈ x.defn.rules) :
    (x.defn.rules.find? fun q => q.number == r.number) = some r := by
  cases found : x.defn.rules.find? fun q => q.number == r.number with
  | none => exact absurd (List.find?_eq_none.mp found r hr) (by simp)
  | some q =>
    rw [rule_ext h.numbers (List.mem_of_find?_eq_some found) hr (by simpa using List.find?_some found)]

end Ruled

/-! ## What running rules leaves (R88, R98) -/

/-- Running rules changes the records alone. -/
theorem FormInstance.runRules_eq (ns : List Nat) (x : FormInstance) :
    x.runRules ns = { x with fields := (x.runRules ns).fields } := by
  induction ns generalizing x with
  | nil => rfl
  | cons n ns ih =>
    unfold FormInstance.runRules
    split
    · exact ih _
    · exact ih _

/-- Running rules leaves each record in its place, with another result and content at most, and those of a field that a
rule targets alone. -/
theorem FormInstance.runRules_ranTo (ns : List Nat) (x : FormInstance) :
    List.Forall₂ (FieldRec.RanTo x.defn.rules) x.fields (x.runRules ns).fields := by
  induction ns generalizing x with
  | nil => exact List.forall₂_same.mpr fun f _ => ⟨rfl, fun _ => rfl⟩
  | cons n ns ih =>
    unfold FormInstance.runRules
    split
    · next r found =>
      have rest := ih (x.runRule r)
      rw [FormInstance.runRule_defn, FormInstance.runRule, FormInstance.modField_fields,
        List.forall₂_map_left_iff] at rest
      refine rest.imp fun f g second => FieldRec.RanTo.trans ?_ second
      split
      · next target => exact ⟨rfl, fun untargeted =>
          absurd target.symm (untargeted r (List.mem_of_find?_eq_some found))⟩
      · exact ⟨rfl, fun _ => rfl⟩
    · exact ih x

theorem forall₂_getElem? {α β : Type} {R : α → β → Prop} {l : List α} {m : List β} (h : List.Forall₂ R l m) {n : Nat}
    {a : α} {b : β} (ha : l[n]? = some a) (hb : m[n]? = some b) : R a b := by
  obtain ⟨hl, rfl⟩ := List.getElem?_eq_some_iff.mp ha
  obtain ⟨hm, rfl⟩ := List.getElem?_eq_some_iff.mp hb
  exact h.get hl hm

/-! ## Records changed under the rules -/

/-- The field that rule `r` targets shows what the rule gives for the fields as they stand (R88, R98). -/
def FormInstance.Shows (x : FormInstance) (r : Rule) : Prop :=
  ∀ f ∈ x.fields, f.defn.number = r.target →
    f.result = some (ruleResult r (r.sources.map x.operand) f.defn.length).1 ∧
      f.content = (ruleResult r (r.sources.map x.operand) f.defn.length).2

theorem FormInstance.resultsCurrent_iff {x : FormInstance} : x.ResultsCurrent ↔ ∀ r ∈ x.defn.rules, x.Shows r :=
  Iff.rfl

/-- `g` changes neither the content nor the result of `f`. -/
def FieldRec.Alike (f g : FieldRec) : Prop := g.content = f.content ∧ g.result = f.result

section Mapped

variable {x : FormInstance} {g : FieldRec → FieldRec} (defns : ∀ f ∈ x.fields, (g f).defn = f.defn)
include defns

/-- The operand of a source is read from the definition, the content and the result of its field alone (R89). -/
theorem FormInstance.operand_mapFields {n : Nat} (alike : ∀ f ∈ x.fields, f.defn.number = n → f.Alike (g f)) :
    FormInstance.operand { x with fields := x.fields.map g } n = x.operand n := by
  have found : FormInstance.field? { x with fields := x.fields.map g } n = (x.field? n).map g := by
    rw [FormInstance.field?, FormInstance.field?, List.find?_map]
    congr 1
    exact List.find?_congr fun f hf => by simp [defns f hf]
  unfold FormInstance.operand
  rw [found]
  cases field : x.field? n with
  | none => rfl
  | some f =>
    have mem := List.mem_of_find?_eq_some field
    obtain ⟨content, result⟩ := alike f mem (by simpa using List.find?_some field)
    simp only [Option.map_some, FormInstance.classOf, defns f mem, content, result]

/-- A rule whose target and sources are left as they were is still shown. -/
theorem FormInstance.Shows.mapFields {r : Rule} (h : x.Shows r)
    (alike : ∀ f ∈ x.fields, f.defn.number = r.target ∨ f.defn.number ∈ r.sources → f.Alike (g f)) :
    FormInstance.Shows { x with fields := x.fields.map g } r := by
  have operands : r.sources.map (FormInstance.operand { x with fields := x.fields.map g }) = r.sources.map x.operand :=
    List.map_congr_left fun n hn => operand_mapFields defns fun f hf same => alike f hf (.inr (same ▸ hn))
  intro f hf target
  obtain ⟨e, he, rfl⟩ := List.mem_map.mp hf
  rw [defns e he] at target ⊢
  obtain ⟨content, result⟩ := alike e he (.inl target)
  rw [operands, content, result]
  exact h e he target

/-- Records whose contents and results stay leave the computed fields current. -/
theorem FormInstance.ResultsCurrent.mapFields (h : x.ResultsCurrent) (alike : ∀ f ∈ x.fields, f.Alike (g f)) :
    FormInstance.ResultsCurrent { x with fields := x.fields.map g } :=
  resultsCurrent_iff.mpr fun r hr =>
    FormInstance.Shows.mapFields defns (resultsCurrent_iff.mp h r hr) fun f hf _ => alike f hf

end Mapped

/-! ## Rules run in the computation order -/

section Running

variable {x : FormInstance}

/-- A rule that is run is shown: its target is none of its sources (R19, R88). -/
theorem FormInstance.runRule_shows {r : Rule} (unfed : r.target ∉ r.sources) : (x.runRule r).Shows r := by
  have operands : r.sources.map (x.runRule r).operand = r.sources.map x.operand := by
    refine List.map_congr_left fun n hn => FormInstance.operand_mapFields (fun f _ => ?_) fun f _ same => ?_
    · split <;> rfl
    · rw [if_neg fun target : f.defn.number = r.target => unfed (target ▸ same ▸ hn)]
      exact ⟨rfl, rfl⟩
  intro f hf target
  rw [operands]
  rw [FormInstance.runRule, FormInstance.modField_fields] at hf
  obtain ⟨e, -, rfl⟩ := List.mem_map.mp hf
  by_cases here : e.defn.number = r.target
  · simp only [here, if_true, and_self]
  · rw [if_neg here] at target
    exact absurd target here

/-- Running a rule leaves shown a rule of another target that it does not feed. -/
theorem FormInstance.Shows.runRule {q r : Rule} (h : x.Shows q) (targets : q.target ≠ r.target)
    (unfed : r.target ∉ q.sources) : (x.runRule r).Shows q := by
  refine FormInstance.Shows.mapFields (fun f _ => ?_) h fun f _ read => ?_
  · split <;> rfl
  · have other : f.defn.number ≠ r.target := by
      rintro here
      obtain target | source := read
      · exact targets (target.symm.trans here)
      · exact unfed (here ▸ source)
    rw [if_neg other]
    exact ⟨rfl, rfl⟩

/-- KEY LEMMA. Rules run in an order in which none feeds an earlier one leave every rule shown, when the rules that are
not run were shown before and none of them is fed by one that is run. -/
theorem FormInstance.runRules_current {ns : List Nat} (ruled : x.Ruled) (unfed : ns.Pairwise (Unfed x.defn.rules))
    (closed : ∀ q ∈ x.defn.rules, q.number ∈ ns → ∀ r ∈ x.defn.rules, q.target ∈ r.sources → r.number ∈ ns)
    (shown : ∀ r ∈ x.defn.rules, r.number ∉ ns → x.Shows r) : (x.runRules ns).ResultsCurrent := by
  induction ns generalizing x with
  | nil => exact FormInstance.resultsCurrent_iff.mpr fun r hr => shown r hr List.not_mem_nil
  | cons n ns ih =>
    obtain ⟨head, tail⟩ := List.pairwise_cons.mp unfed
    have closed' : ∀ q ∈ x.defn.rules, q.number ∈ ns → ∀ r ∈ x.defn.rules, q.target ∈ r.sources → r.number ∈ ns := by
      intro q hq later r hr feed
      exact (List.mem_cons.mp (closed q hq (List.mem_cons_of_mem _ later) r hr feed)).resolve_left
        fun here => head q.number later q hq rfl r hr here feed
    unfold FormInstance.runRules
    split
    · next q found =>
      have hq := List.mem_of_find?_eq_some found
      obtain rfl : q.number = n := by simpa using List.find?_some found
      refine ih (ruled.setFields _) tail closed' fun r hr rest => ?_
      obtain rfl | other := eq_or_ne r q
      · exact FormInstance.runRule_shows (ruled.target_not_source hr)
      · have apart : r.number ∉ q.number :: ns := fun mem =>
          (List.mem_cons.mp mem).elim (fun same => other (rule_ext ruled.numbers hr hq same)) rest
        exact (shown r hr apart).runRule (fun same => other (ruled.targets r hr q hq same))
          fun feed => apart (closed q hq List.mem_cons_self r hr feed)
    · next missing =>
      refine ih ruled tail closed' fun r hr rest => shown r hr fun mem => ?_
      obtain here | later := List.mem_cons.mp mem
      · rw [← here, ruled.find_number hr] at missing
        cases missing
      · exact rest later

/-- Recomputation after a change leaves the computed fields current when the rules with no changed source were
current before (R98, R99). -/
theorem FormInstance.Ruled.recompute_current (ruled : x.Ruled) {changed : List Nat}
    (shown : ∀ r ∈ x.defn.rules, (∀ n ∈ r.sources, n ∉ changed) → x.Shows r) :
    (x.recompute changed).ResultsCurrent := by
  have run {r : Rule} (hr : r ∈ x.defn.rules) :
      r.number ∈ (x.order.filter fun n => (downstream x.defn.rules changed).contains n) ↔
        r.number ∈ downstream x.defn.rules changed := by
    rw [List.mem_filter, List.contains_iff_mem, and_iff_right (ruled.mem_order hr)]
  refine FormInstance.runRules_current ruled ((ruled.order.unfed ruled.numbers).filter _)
    (fun q hq runs r hr feed => ?_) fun r hr rest => shown r hr fun n hn hc => rest ?_
  · obtain ⟨p, hp, source, path⟩ := (mem_downstream ruled.numbers hq).mp ((run hq).mp runs)
    exact (run hr).mpr ((mem_downstream ruled.numbers hr).mpr ⟨p, hp, source, path.tail ⟨hq, hr, feed⟩⟩)
  · exact (run hr).mpr ((mem_downstream ruled.numbers hr).mpr ⟨r, hr, ⟨n, hn, hc⟩, .refl⟩)

/-- Every rule run leaves every computed field current, whatever they showed before (R36, R125). -/
theorem FormInstance.Ruled.recomputeAll_current (ruled : x.Ruled) : x.recomputeAll.ResultsCurrent :=
  FormInstance.runRules_current ruled (ruled.order.unfed ruled.numbers) (fun _ _ _ _ hr _ => ruled.mem_order hr)
    fun _ hr rest => absurd (ruled.mem_order hr) rest

/-- Fields that no rule targets change their contents, and the rules downstream of them are run (R98). -/
theorem FormInstance.ResultsCurrent.refilled (h : x.ResultsCurrent) (ruled : x.Ruled) {g : FieldRec → FieldRec}
    {changed : List Nat} (defns : ∀ f ∈ x.fields, (g f).defn = f.defn)
    (kept : ∀ f ∈ x.fields, f.defn.number ∉ changed → f.Alike (g f))
    (free : ∀ r ∈ x.defn.rules, r.target ∉ changed) :
    (FormInstance.recompute { x with fields := x.fields.map g } changed).ResultsCurrent := by
  refine (ruled.setFields _).recompute_current fun r hr unchanged => ?_
  refine FormInstance.Shows.mapFields defns (h r hr) fun f hf read => kept f hf ?_
  exact read.elim (fun target => target ▸ free r hr) (unchanged _)

end Running

end Sys2Proof.Machine
end

section
/-! Computed fields through the events of a station (R88, R98 to R100): every event leaves them current. -/

namespace Sys2Proof.Machine

/-! ## Changes of an instance -/

/-- No rule targets a field that is not computed (R3, R19). -/
theorem FormInstance.Sound.untargeted {x : FormInstance} (h : x.Sound) {f : FieldRec} (hf : f ∈ x.fields)
    (free : isComputedDef x.defn f.defn = false) : ∀ r ∈ x.defn.rules, r.target ≠ f.defn.number := by
  intro r hr target
  have fixed := h.laid.targets r hr _ (h.defn_mem hf) target.symm
  rw [isComputedDef_iff.mpr ⟨fixed, r, hr, target⟩] at free
  cases free

section Changes

variable {x : FormInstance} (current : x.ResultsCurrent)
include current

theorem FormInstance.ResultsCurrent.setCursor (p : Nat) : FormInstance.ResultsCurrent { x with cursor := p } := current

theorem FormInstance.ResultsCurrent.turnTo (p : Nat) : (x.turnTo p).ResultsCurrent := current

theorem FormInstance.ResultsCurrent.settle (up : Bool) : (x.settle up).ResultsCurrent := current

theorem FormInstance.ResultsCurrent.mark (n : Nat) (m : Mark) : (x.mark n m).ResultsCurrent := by
  refine FormInstance.ResultsCurrent.mapFields (fun f _ => ?_) current fun f _ => ?_
  · split <;> rfl
  · split <;> exact ⟨rfl, rfl⟩

theorem FormInstance.ResultsCurrent.markFailing : x.markFailing.ResultsCurrent := by
  refine FormInstance.ResultsCurrent.mapFields (fun f _ => ?_) current fun f _ => ?_
  · repeat' split
    all_goals rfl
  · repeat' split
    all_goals exact ⟨rfl, rfl⟩

theorem FormInstance.ResultsCurrent.clearMarks :
    (x.modFields (fun _ => true) fun f => { f with mark := none }).ResultsCurrent :=
  FormInstance.ResultsCurrent.mapFields (fun _ _ => rfl) current fun _ _ => ⟨rfl, rfl⟩

theorem FormInstance.ResultsCurrent.resetTouched :
    (x.modFields (fun _ => true) fun f => { f with touched := false }).ResultsCurrent :=
  FormInstance.ResultsCurrent.mapFields (fun _ _ => rfl) current fun _ _ => ⟨rfl, rfl⟩

/-- One field that is not computed changed, and the rules downstream of it run (R98). -/
theorem FormInstance.ResultsCurrent.modField (h : x.Sound) {f : FieldRec} (hf : f ∈ x.fields)
    (free : isComputedDef x.defn f.defn = false) {g : FieldRec → FieldRec} (defn : ∀ f, (g f).defn = f.defn) :
    ((x.modField f.defn.number g).recompute [f.defn.number]).ResultsCurrent := by
  refine current.refilled h.ruled (fun e _ => ?_) (fun e _ other => ?_) fun r hr target => ?_
  · split
    · exact defn e
    · rfl
  · rw [if_neg fun same => other (List.mem_singleton.mpr same)]
    exact ⟨rfl, rfl⟩
  · exact h.untargeted hf free r hr (List.mem_singleton.mp target)

theorem FormInstance.ResultsCurrent.edit (h : x.Sound) {f : FieldRec} (hf : f ∈ x.fields) (input : f.isInput = true)
    (t : List Byte) (marking : Option Mark → Option Mark) : (x.edit f.defn.number t marking).ResultsCurrent :=
  current.modField h hf ((h.record hf).not_computed input) fun _ => rfl

theorem FormInstance.ResultsCurrent.eraseInputs (h : x.Sound) (which : FieldRec → Bool) :
    (x.eraseInputs which).ResultsCurrent := by
  refine current.refilled h.ruled (fun f _ => ?_) (fun f hf other => ?_) fun r hr target => ?_
  · split <;> rfl
  · rw [if_neg fun chosen => other (List.mem_map_of_mem (List.mem_filter.mpr ⟨hf, chosen⟩))]
    exact ⟨rfl, rfl⟩
  · obtain ⟨f, chosen, number⟩ := List.mem_map.mp target
    obtain ⟨hf, chosen⟩ := List.mem_filter.mp chosen
    have input : f.isInput = true := (Bool.and_eq_true_iff.mp chosen).1
    exact h.untargeted hf ((h.record hf).not_computed input) r hr number.symm

/-- An update that is not skipped falls on a field that is not computed (R140, R141). -/
theorem FormInstance.ResultsCurrent.update (h : x.Sound) {policy : Policy} {k : Keyboard} {u : Update}
    (taken : skipReason policy k x u = none) :
    ((x.modField u.field fun f => f.updated u).recompute [u.field]).ResultsCurrent := by
  unfold skipReason at taken
  split at taken
  · cases taken
  · next f found =>
    split at taken
    · cases taken
    · next free =>
      have number : f.defn.number = u.field := by simpa using List.find?_some found
      rw [← number]
      exact current.modField h (List.mem_of_find?_eq_some found) (Bool.eq_false_of_not_eq_true free) fun _ => rfl

theorem FormInstance.ResultsCurrent.writeCursor (c : Option (Nat × Nat)) : (x.writeCursor c).ResultsCurrent := by
  unfold FormInstance.writeCursor
  repeat' split
  all_goals exact current

theorem FormInstance.ResultsCurrent.turned (st : Station) (page : Option Nat) :
    (st.turned page x).ResultsCurrent := by
  unfold Station.turned
  repeat' split
  all_goals exact current

theorem FormInstance.ResultsCurrent.written (st : Station) (w : WriteOrder) : (st.written w x).ResultsCurrent :=
  (current.turned st w.page).writeCursor w.cursor

theorem FormInstance.ResultsCurrent.hostTurn (a : Act) (p : Nat) : (a.hostTurn x p).ResultsCurrent := by
  unfold Act.hostTurn
  split
  · exact (current.turnTo p).settle _
  · exact current.turnTo p

end Changes

/-- CLEAR runs every rule on the restored fields (R99, R103, R125). -/
theorem FormInstance.Sound.restore_current {x : FormInstance} (h : x.Sound) : x.restore.ResultsCurrent := by
  have restored := (h.ruled.setFields (x.fields.map FieldRec.restored)).recomputeAll_current
  exact restored

/-- SHOW runs every rule on the fresh fields (R36, R99, R103). -/
theorem newInstance_current {l : Library} (ranges : l.RangesSound) (active : l.ActiveSound) {number : Nat}
    {a : ActiveForm} (found : lookupKey number l.forms = some a) (generation : Nat) (settling : Bool) :
    (newInstance number generation a l.classes settling).ResultsCurrent := by
  have ruled := (newInstance_sound ranges active found generation settling).ruled
  obtain ⟨-, -, defn, order, -⟩ := newInstance_copies number generation a l.classes settling
  obtain ⟨numbers, targets, acyclic, ordered⟩ := ruled
  rw [defn] at numbers targets acyclic ordered
  rw [order] at ordered
  have bare : (bareInstance number generation a l.classes settling).Ruled := ⟨numbers, targets, acyclic, ordered⟩
  exact bare.recomputeAll_current

/-! ## Keying -/

/-- The computed fields of the instance that the event's station holds, if it holds one, are current. -/
def Act.ResultsCurrent (a : Act) : Prop := a.station.ResultsCurrent

theorem Station.ResultsCurrent.of_form {a b : Station} (h : a.ResultsCurrent) (same : b.form = a.form) :
    b.ResultsCurrent :=
  fun x hx => h x (same ▸ hx)

/-- Settling set or cleared on the instance, if there is one. -/
theorem Station.ResultsCurrent.settled {a b : Station} (h : a.ResultsCurrent) {up : Bool}
    (same : b.form = a.form.map fun x => x.settle up) : b.ResultsCurrent := by
  intro y hy
  rw [same] at hy
  obtain ⟨x, hx, rfl⟩ := Option.map_eq_some_iff.mp hy
  exact (h x hx).settle up

theorem Station.resultsCurrent_of_some {st : Station} {x : FormInstance} (form : st.form = some x)
    (current : x.ResultsCurrent) : st.ResultsCurrent := by
  intro y hy
  rw [form] at hy
  cases hy
  exact current

theorem Act.resultsCurrent_putForm (a : Act) {x : FormInstance} (current : x.ResultsCurrent) :
    (a.putForm x).ResultsCurrent :=
  Station.resultsCurrent_of_some rfl current

section Keying

variable {x : FormInstance} (current : x.ResultsCurrent)
include current

theorem Act.resultsCurrent_move (a : Act) (dest : Nat) : (a.move x dest).ResultsCurrent := by
  unfold Act.move
  split
  · exact a.resultsCurrent_putForm (current.mark _ _)
  · exact a.resultsCurrent_putForm (current.setCursor dest)

theorem Act.resultsCurrent_advance (a : Act) (f : FieldRec) (off : Nat) : (a.advance x f off).ResultsCurrent := by
  unfold Act.advance
  split
  · exact Act.resultsCurrent_move current _ _
  · exact a.resultsCurrent_putForm (current.setCursor _)

theorem Act.resultsCurrent_enterChar (h : x.Sound) {a : Act} (ha : a.ResultsCurrent) (key : Byte) :
    (a.enterChar x key).ResultsCurrent := by
  unfold Act.enterChar
  split
  · exact ha
  · next f found =>
    obtain ⟨mem, input, -⟩ := h.inputAtCursor found
    dsimp only
    split
    · exact a.resultsCurrent_putForm (current.mark _ _)
    · split
      · exact ha
      · exact Act.resultsCurrent_advance (current.edit h mem input _ _) a f _

theorem Act.resultsCurrent_editField (h : x.Sound) {a : Act} (ha : a.ResultsCurrent)
    (change : List Byte → Nat → List Byte) : (a.editField x change).ResultsCurrent := by
  unfold Act.editField
  split
  · exact ha
  · next f found =>
    obtain ⟨mem, input, -⟩ := h.inputAtCursor found
    exact a.resultsCurrent_putForm (current.edit h mem input _ _)

theorem Act.resultsCurrent_backspace (h : x.Sound) {a : Act} (ha : a.ResultsCurrent) :
    (a.backspace x).ResultsCurrent := by
  unfold Act.backspace
  split
  · split
    · exact Act.resultsCurrent_editField (current.setCursor _) (h.setCursor (leftOf_lt _)) ha deleteAt
    · exact Act.resultsCurrent_move current a _
  · exact Act.resultsCurrent_move current a _

theorem Act.resultsCurrent_eraseInput (h : x.Sound) (a : Act) : (a.eraseInput x).ResultsCurrent :=
  a.resultsCurrent_putForm ((current.eraseInputs h _).setCursor _)

theorem Act.resultsCurrent_pageKey {a : Act} (ha : a.ResultsCurrent) (target : Option Nat) :
    (a.pageKey x target).ResultsCurrent := by
  unfold Act.pageKey
  split
  · exact ha
  · split
    · exact a.resultsCurrent_putForm (current.mark _ _)
    · exact Station.resultsCurrent_of_some rfl ((current.turnTo _).settle _)

/-! ## Sends -/

theorem Act.resultsCurrent_compose (a : Act) (i : StationId) (k : SendKey) (full : Bool) :
    (a.compose i k full x).ResultsCurrent := by
  obtain ⟨station, -, -⟩ := a.compose_station i k full x
  exact Station.resultsCurrent_of_some (by rw [station]) current

theorem Act.resultsCurrent_failSend (a : Act) (f : FieldRec) (m : Mark) : (a.failSend x f m).ResultsCurrent := by
  unfold Act.failSend
  dsimp only
  split
  · exact Station.resultsCurrent_of_some rfl (current.markFailing.setCursor _)
  · exact Station.resultsCurrent_of_some rfl (((current.markFailing.turnTo _).settle _).setCursor _)

theorem Act.resultsCurrent_fullSend (a : Act) (i : StationId) (k : SendKey) : (a.fullSend i k x).ResultsCurrent := by
  unfold Act.fullSend
  split
  · exact Act.resultsCurrent_compose current a i k true
  · exact Act.resultsCurrent_failSend current a _ _

theorem Act.resultsCurrent_functionSend (a : Act) (i : StationId) (n : Fin 12) :
    (a.functionSend i n x).ResultsCurrent := by
  unfold Act.functionSend
  split
  · exact Act.resultsCurrent_compose current a i _ false
  · exact Act.resultsCurrent_fullSend current a i _

/-- A send is refused for an occupied slot, or goes on (R116, R118). -/
theorem Act.resultsCurrent_send {a : Act} {go : Act → FormInstance → Act}
    (sent : (go a { x with insert := false }).ResultsCurrent) : (a.send x go).ResultsCurrent := by
  obtain ⟨-, refused⟩ | ⟨-, goes⟩ := a.send_cases x go
  · rw [Act.Refused] at refused
    rw [refused]
    exact a.resultsCurrent_putForm current
  · rw [goes]
    exact sent

/-! ## Scans -/

theorem Act.resultsCurrent_route (h : x.Sound) (a : Act) {f : FieldRec} (hf : f ∈ x.fields) (input : f.isInput = true)
    (text : List Byte) : (a.route x f text).ResultsCurrent := by
  unfold Act.route
  split
  · exact a.resultsCurrent_putForm (current.mark _ _)
  · have page := h.laid.page _ (h.defn_mem hf)
    obtain ⟨sound, fields⟩ := Act.toPage_sound h a page.1 page.2
    have turned : (a.toPage x f.defn.page).2.ResultsCurrent := by
      unfold Act.toPage
      split <;> exact current
    have edited := turned.edit sound (fields ▸ hf) input (padCut f.defn.length text) fun _ => none
    exact Act.resultsCurrent_move (edited.setCursor f.start) _ _

end Keying

theorem Act.ResultsCurrent.wedge {a : Act} (ha : a.ResultsCurrent) (sound : a.FormSound) (cs : List Byte) :
    (a.wedge cs).ResultsCurrent := by
  induction cs generalizing a with
  | nil => exact ha
  | cons c cs ih =>
    unfold Act.wedge
    split
    · next x _ form =>
      have h := sound x form
      exact ih (Act.resultsCurrent_enterChar (ha x form) h ha c) (Act.formSound_enterChar h sound c)
    · exact ha

theorem Act.resultsCurrent_scanItem {a : Act} (ha : a.ResultsCurrent) (sound : a.FormSound) {x : FormInstance}
    (h : x.Sound) (current : x.ResultsCurrent) (routes : Table RouteDef) (text : List Byte) :
    (a.scanItem routes x text).ResultsCurrent := by
  unfold Act.scanItem
  split
  · next f stripped route =>
    obtain ⟨mem, input⟩ := h.routed route
    exact Act.resultsCurrent_route current h a mem input stripped
  · unfold Act.fallback
    split
    · exact ha
    · exact ha.wedge sound text

/-! ## Every item -/

/-- Acting on an item leaves the computed fields current. -/
theorem Act.resultsCurrent_itemAct (l : Library) (i : StationId) (it : Item) {a : Act} (ha : a.ResultsCurrent)
    (sound : a.FormSound) {x : FormInstance} (h : x.Sound) (current : x.ResultsCurrent) :
    (itemAct l i it a x).ResultsCurrent := by
  have off : FormInstance.ResultsCurrent { x with insert := false } := current
  cases it with
  | char c => exact Act.resultsCurrent_enterChar current h ha c
  | edit k =>
    cases k with
    | insert => exact a.resultsCurrent_putForm current
    | delete => exact Act.resultsCurrent_editField current h ha deleteAt
    | backspace => exact Act.resultsCurrent_backspace current h ha
    | eraseField => exact Act.resultsCurrent_editField current h ha eraseFrom
    | eraseInput => exact Act.resultsCurrent_eraseInput current h a
  | move k =>
    cases k with
    | pageNext => exact Act.resultsCurrent_pageKey current ha _
    | pagePrior => exact Act.resultsCurrent_pageKey current ha _
    | _ => exact Act.resultsCurrent_move current a _
  | reset => exact a.resultsCurrent_putForm current
  | intent k =>
    cases k with
    | enter => exact Act.resultsCurrent_send current (Act.resultsCurrent_fullSend off a i _)
    | function n => exact Act.resultsCurrent_send current (Act.resultsCurrent_functionSend off a i n)
    | cancel => exact Act.resultsCurrent_send current (Act.resultsCurrent_compose off a i _ false)
    | clear =>
      exact Act.resultsCurrent_send current
        (Act.resultsCurrent_compose (h.setInsert false).restore_current a i _ false)
  | scan text => exact Act.resultsCurrent_scanItem ha sound h current l.routes text

theorem Act.resultsCurrent_takeItem (l : Library) (i : StationId) (it : Item) {a : Act} (ha : a.ResultsCurrent)
    (sound : a.FormSound) {x : FormInstance} (h : x.Sound) (current : x.ResultsCurrent) :
    (a.takeItem it x (itemAct l i it)).ResultsCurrent := by
  have dropped : a.dropHead.ResultsCurrent := ha
  by_cases free : a.station.keyboard = .free
  · rw [Act.takeItem_free it x _ free]
    exact Act.resultsCurrent_itemAct l i it dropped sound h current
  · unfold Act.takeItem
    split
    · next e => exact absurd e free
    all_goals
      split
      · exact a.dropHead.resultsCurrent_putForm current
      · exact dropped

/-! ## Orders -/

theorem Written.update_current {policy : Policy} {k : Keyboard} {w : Written} (h : w.form.Sound)
    (current : w.form.ResultsCurrent) (u : Update) : (w.update policy k u).form.ResultsCurrent := by
  unfold Written.update
  split
  · exact current
  · next taken => exact current.update h taken

theorem Written.updates_current {policy : Policy} {k : Keyboard} (us : List Update) {w : Written} (h : w.form.Sound)
    (current : w.form.ResultsCurrent) : (us.foldl (Written.update policy k) w).form.ResultsCurrent := by
  induction us generalizing w with
  | nil => exact current
  | cons u us ih => exact ih (Written.update_sound h u) (Written.update_current h current u)

/-- Steps 1 to 4 of a WRITE leave the computed fields current (R98, R139). -/
theorem writeFields_current (w : WriteOrder) (policy : Policy) (k : Keyboard) {x : FormInstance} (h : x.Sound)
    (current : x.ResultsCurrent) : (writeFields w policy k x).form.ResultsCurrent := by
  have erased (on : Bool) : (if on then x.eraseInputs fun _ => true else x).Sound ∧
      (if on then x.eraseInputs fun _ => true else x).ResultsCurrent := by
    cases on with
    | true => exact ⟨h.eraseInputs _, current.eraseInputs h _⟩
    | false => exact ⟨h, current⟩
  obtain ⟨sound, current⟩ := erased w.eraseInput
  have updated := Written.updates_current (policy := policy) (k := k) w.updates (w := ⟨_, [], []⟩) sound current
  unfold writeFields
  dsimp only
  split
  · split
    · exact updated.clearMarks.resetTouched
    · exact updated.resetTouched
  · split
    · exact updated.clearMarks
    · exact updated

/-- Every applied order leaves the computed fields current. -/
theorem OrderMove.resultsCurrent {l : Library} {i : StationId} {flags : BitVec 8} {st : Station} {a : Act}
    (move : OrderMove l i flags st a) (ranges : l.RangesSound) (active : l.ActiveSound) (h : st.FormSound)
    (current : st.ResultsCurrent) : a.ResultsCurrent := by
  cases move with
  | shown hold _ found =>
    exact Station.resultsCurrent_of_some rfl (newInstance_current ranges active found _ _)
  | wrote _ _ form _ _ =>
    rw [Act.writeRest_eq]
    exact Station.resultsCurrent_of_some rfl
      ((writeFields_current _ _ _ (h _ form) (current _ form)).written st _)
  | noticed _ _ _ _ => exact current
  | held _ _ => exact current
  | released _ _ => exact current
  | turned _ form _ _ => exact Station.resultsCurrent_of_some rfl ((current _ form).hostTurn _ _)
  | reread _ _ _ => exact current
  | set c _ => exact current
  | reset => exact fun _ e => nomatch e
  | suspended _ _ _ _ => exact current.settled rfl
  | resumed _ =>
    cases form : st.form with
    | some x =>
      rw [Act.resume_some form]
      exact Station.resultsCurrent_of_some rfl (current x form)
    | none =>
      rw [Act.resume_none form]
      exact current
  | unchanged => exact current

/-! ## Every event -/

theorem ActMove.resultsCurrent {l : Library} {i : StationId} {flags : BitVec 8} {st : Station} {a : Act}
    (move : ActMove l i flags st a) (ranges : l.RangesSound) (active : l.ActiveSound) (h : st.FormSound)
    (current : st.ResultsCurrent) : a.ResultsCurrent := by
  cases move with
  | taken head =>
    obtain ⟨-, form, -⟩ := Station.head?_some head
    exact Act.resultsCurrent_takeItem l i _ (a := Act.start st) current h (h _ form) (current _ form)
  | silent _ => exact current.settled rfl
  | sent _ =>
    rw [Act.transmitted_eq]
    by_cases done : st.line.repaintDone = true
    · exact current.settled (if_pos done)
    · exact current.of_form (if_neg done)
  | expires _ => exact current
  | collected _ => exact current
  | ordered valid order applied =>
    exact (order_cases valid order applied).resultsCurrent ranges active h current
  | partReset => exact fun _ e => nomatch e

/-- Settles O13: whatever a step makes of a station (`step_station`), each computed field of its instance shows what its
rule gives, as rules run in the computation order leave it (`FormInstance.runRules_current`); and running rules changes
the results and contents of targets alone (`FormInstance.runRules_ranTo`). -/
theorem stepKeepsComputedFieldsCurrent : Obligations.StepKeepsComputedFieldsCurrent := by
  refine ⟨fun s t ranges active stations h i => ?_, fun x changed => ?_⟩
  · obtain ⟨sound, current⟩ := stations i
    refine (step_station h i).keeps (fun _ e => nomatch e)
      (fun move current => move.resultsCurrent ranges active sound current)
      (fun message current => current.of_form message.form) current
  · have ran := x.runRules_ranTo (x.order.filter fun n => (downstream x.defn.rules changed).contains n)
    exact ⟨x.runRules_eq _, ran.length_eq.symm, fun n f g hf hg => forall₂_getElem? ran hf hg⟩

end Sys2Proof.Machine
end

section
/-! What a rule gives (R89 to R97): its operands, its operation, the one rescale, and the display of its result. -/

namespace Sys2Proof.Machine

/-! ## The rescale (R94) -/

/-- Division rounds the magnitude up by the error `e` when that is at most half of `d`, else down by an error below
half, and the sign is kept. -/
theorem divRound_cases (v : Int) {d : Nat} (pos : 0 < d) :
    ∃ k e : Nat, divRound v d = (if v < 0 then -(k : Int) else k) ∧
      ((k * d = v.natAbs + e ∧ 0 < e ∧ 2 * e ≤ d) ∨ (k * d + e = v.natAbs ∧ 2 * e < d)) := by
  have division := Nat.div_add_mod' v.natAbs d
  have below := Nat.mod_lt v.natAbs pos
  by_cases up : 2 * (v.natAbs % d) ≥ d
  · refine ⟨v.natAbs / d + 1, d - v.natAbs % d, ?_, .inl ⟨?_, by omega, by omega⟩⟩
    · simp only [divRound, if_pos up]
    · rw [Nat.succ_mul]
      omega
  · refine ⟨v.natAbs / d, v.natAbs % d, ?_, .inr ⟨division, by omega⟩⟩
    simp only [divRound, if_neg up]

/-- A rounded quotient is the nearest one, the one farther from zero when two are as near, and on the value's own side
of zero. -/
theorem divRound_nearest (v : Int) {d : Nat} (pos : 0 < d) :
    2 * (divRound v d * d - v).natAbs ≤ d ∧
      (2 * (divRound v d * d - v).natAbs = d → v.natAbs < (divRound v d * d).natAbs) ∧
      (v < 0 → divRound v d ≤ 0) ∧ (0 ≤ v → 0 ≤ divRound v d) := by
  obtain ⟨k, e, rounded, error⟩ := divRound_cases v pos
  have magnitude : divRound v d * d = if v < 0 then -((k * d : Nat) : Int) else ((k * d : Nat) : Int) := by
    rw [rounded]
    split <;> push_cast <;> ring
  rw [magnitude, rounded]
  split <;> omega

theorem rescale_same (v : Int) (s : Nat) : rescale v s s = v := by
  simp [rescale]

theorem rescale_up (v : Int) {s pr : Nat} (more : s < pr) : rescale v s pr = v * 10 ^ (pr - s) :=
  if_pos more.le

theorem rescale_down (v : Int) {s pr : Nat} (fewer : pr < s) : rescale v s pr = divRound v (10 ^ (s - pr)) :=
  if_neg fewer.not_ge

/-! ## Operands (R89) -/

section Operands

variable {x : FormInstance} {n : Nat} {f : FieldRec} (found : x.field? n = some f)
include found

/-- The operand of an INPUT source, by what its content reads as; a FORMAT reading is undefined. -/
theorem FormInstance.operand_input (input : f.defn.kind = .input) {c : ClassDef} (cls : x.classOf f = some c)
    {places : Nat} {signed : Bool} (reads : readBy c f.content = some (numericReading places signed f.content))
    (scale : (if c.kind = .decimal then c.places else 0) = places) :
    x.operand n =
      match numericReading places signed f.content with
      | .blank => .blank
      | .format => .undefined
      | .value v => .value v places := by
  unfold FormInstance.operand
  simp only [found, input, cls, Option.map_some, reads, scale]
  cases numericReading places signed f.content <;> rfl

/-- The operand of a computed source, by its result, at the places of the rule that targets it. -/
theorem FormInstance.operand_computed (fixed : f.defn.kind = .fixed) {r : Rule}
    (rule : (x.defn.rules.find? fun q => q.target == n) = some r) :
    (∀ v, f.result = some (.value v) → x.operand n = .value v r.places) ∧
      (f.result = some .blank → x.operand n = .blank) ∧ (f.result = some .overflow → x.operand n = .overflow) ∧
      (f.result = some .undefined → x.operand n = .undefined) := by
  unfold FormInstance.operand
  simp only [found, fixed, rule]
  refine ⟨fun v result => ?_, fun result => ?_, fun result => ?_, fun result => ?_⟩ <;> simp only [result]

end Operands

/-- The rule found for a target is the first that has it. -/
theorem find_target {rules a b : List Rule} {r : Rule} {n : Nat} (split : rules = a ++ r :: b) (target : r.target = n)
    (before : ∀ q ∈ a, q.target ≠ n) : (rules.find? fun q => q.target == n) = some r := by
  have none : (a.find? fun q => q.target == n) = none :=
    List.find?_eq_none.mpr fun q hq => by simpa using before q hq
  rw [split, List.find?_append, none, List.find?_cons]
  simp [target]

/-! ## The operation (R90 to R93) -/

theorem maxPlaces_le_iff {ops : List Operand} {q : Nat} : maxPlaces ops ≤ q ↔ ∀ o ∈ ops, o.number.2 ≤ q := by
  have fold : ∀ start, ops.foldl (fun q o => max q o.number.2) start ≤ q ↔ start ≤ q ∧ ∀ o ∈ ops, o.number.2 ≤ q := by
    induction ops with
    | nil => simp
    | cons o ops ih => intro start; rw [List.foldl_cons, ih, max_le_iff, List.forall_mem_cons, and_assoc]
  rw [maxPlaces, fold, and_iff_right (Nat.zero_le q)]

/-- The largest places among operands is the bound that one of them attains (R92). -/
theorem maxPlaces_eq {ops : List Operand} {v : Int} {q : Nat} (attained : Operand.value v q ∈ ops)
    (bound : ∀ m p, Operand.value m p ∈ ops → p ≤ q) : maxPlaces ops = q := by
  refine le_antisymm (maxPlaces_le_iff.mpr fun o mem => ?_) (maxPlaces_le_iff.mp le_rfl _ attained)
  cases o with
  | value m p => exact bound m p mem
  | _ => exact Nat.zero_le q

theorem rawResult_undefined {op : RuleOp} {ops : List Operand} (mem : .undefined ∈ ops) :
    rawResult op ops = .decided .undefined :=
  if_pos (List.contains_iff_mem.mpr mem)

section Defined

variable {ops : List Operand} (defined : .undefined ∉ ops)
include defined

theorem rawResult_overflow {op : RuleOp} (mem : .overflow ∈ ops) : rawResult op ops = .decided .overflow := by
  simp only [rawResult, List.contains_iff_mem, defined, mem, if_false, if_true]

variable (fits : .overflow ∉ ops)
include fits

theorem rawResult_blank_factor {op : RuleOp} (mem : .blank ∈ ops) (factors : op = .product ∨ op = .percent) :
    rawResult op ops = .decided .blank := by
  obtain rfl | rfl := factors <;>
    simp only [rawResult, List.contains_iff_mem, defined, fits, mem, if_false, if_true]

theorem rawResult_all_blank {op : RuleOp} (all : ∀ o ∈ ops, o = .blank) (terms : op = .sum ∨ op = .difference) :
    rawResult op ops = .decided .blank := by
  have blanks : (ops.all (· == .blank)) = true := by simpa using all
  obtain rfl | rfl := terms <;>
    simp only [rawResult, List.contains_iff_mem, defined, fits, blanks, if_false, if_true]

/-- With a value among the operands a SUM and a DIFFERENCE are computed (R90, R92, R93). -/
theorem rawResult_terms {v : Int} {q : Nat} (valued : .value v q ∈ ops) :
    rawResult .sum ops = sumRaw ops ∧ rawResult .difference ops = differenceRaw ops := by
  have some_value : (ops.all (· == .blank)) = false := List.all_eq_false.mpr ⟨_, valued, by simp⟩
  simp only [rawResult, List.contains_iff_mem, defined, fits, some_value, if_false, Bool.false_eq_true, and_self]

end Defined

/-! ## Sign and display (R95 to R97) -/

/-- A result decided before any arithmetic keeps its state and shows it (R90, R97). -/
theorem ruleResult_decided {r : Rule} {ops : List Operand} {d : Result} (raw : rawResult r.op ops = .decided d)
    (len : Nat) : ruleResult r ops len = (d, stateText len d) := by
  simp only [ruleResult, raw]

/-- A number is rescaled, tested for its sign and then for its width (R94 to R96). -/
theorem ruleResult_number {r : Rule} {ops : List Operand} {v : Int} {places : Nat}
    (raw : rawResult r.op ops = .number v places) (len : Nat) :
    ruleResult r ops len =
      if rescale v places r.places < 0 ∧ r.signed = false then (.undefined, stateText len .undefined)
      else displayValue (rescale v places r.places) r.places len := by
  simp only [ruleResult, raw, Bool.and_eq_true, decide_eq_true_eq, Bool.not_eq_true']

/-- Settles O59: the rescale by `divRound_nearest`, the operands by `FormInstance.operand_input` and
`FormInstance.operand_computed`, and the table of R90 row by row. -/
theorem rescaleRoundsHalfAwayFromZero : Obligations.RescaleRoundsHalfAwayFromZero := by
  refine ⟨fun v s pr => ⟨?_, rescale_up v, fun fewer => ?_⟩, fun x n f found => ⟨?_, ?_⟩, fun op ops =>
    ⟨rawResult_undefined, fun defined => rawResult_overflow defined, fun defined fits => ⟨rawResult_blank_factor defined fits,
      rawResult_all_blank defined fits, ?_⟩⟩, fun m n p q => ⟨rfl, rfl⟩, fun r ops len _ => ⟨?_, ?_, ?_, ?_⟩⟩
  · rintro rfl
    exact rescale_same v s
  · have nearest := divRound_nearest v (d := 10 ^ (s - pr)) (by positivity)
    rw [rescale_down v fewer]
    push_cast at nearest
    exact nearest
  · rintro c places signed input cls (⟨kind, rfl, rfl⟩ | ⟨kind, rfl, rfl⟩)
    · exact FormInstance.operand_input found input cls (by simp only [readBy, kind]) (by simp [kind])
    · exact FormInstance.operand_input found input cls (by simp only [readBy, kind]) (if_pos kind)
  · intro r a b fixed split target before
    exact FormInstance.operand_computed found fixed (find_target split target before)
  · rintro places scaled ⟨v, valued⟩ bound
    have largest := maxPlaces_eq valued bound
    have brought : Operand.brought places = scaled := by
      funext o
      cases o <;> simp [Operand.brought, Operand.number, scaled]
    obtain ⟨sum, difference⟩ := rawResult_terms defined fits valued
    refine ⟨?_, ?_⟩
    · rintro rfl
      rw [sum, sumRaw, largest, brought]
    · rintro a b rfl rfl
      rw [difference, differenceRaw, largest, brought]
  · exact fun raw => ruleResult_decided raw len
  · exact fun raw => ruleResult_decided raw len
  · exact fun raw => ruleResult_decided raw len
  · exact fun v places raw => ruleResult_number raw len

end Sys2Proof.Machine
end

section
/-! STATION SET as a command (R106, R134, R150). -/

namespace Sys2Proof.Machine

/-- STATION SET is refused in ACTIVE alone (R150). -/
theorem stationSetOrder_active {st : Station} (active : st.state = .active) (c : SettingsChange) :
    stationSetOrder c (Act.start st) = .refused .busy := by
  simp only [stationSetOrder, Act.start_station, active]

/-- STATION SET at a station that is not ACTIVE: the settings carried are changed, and a scanner setting among them
resets the scanner (R106, R150). -/
theorem stationSetOrder_inactive {st : Station} (inactive : st.state ≠ .active) (c : SettingsChange) :
    stationSetOrder c (Act.start st) =
      .plain ⟨{ st with
          settings := st.settings.change c
          line := c.scanner.elim st.line st.line.resetScanner }, [], false, []⟩ := by
  unfold stationSetOrder
  cases state : st.state with
  | active => exact absurd state inactive
  | noForm => cases c.scanner <;> simp only [Act.start_station, state] <;> rfl
  | suspended => cases c.scanner <;> simp only [Act.start_station, state] <;> rfl

theorem stationSetOrder_outcome (c : SettingsChange) (st : Station) :
    (stationSetOrder c (Act.start st)).outcome = if st.state = .active then .refused .busy else plainOutcome := by
  split
  · next active => rw [stationSetOrder_active active]; rfl
  · next inactive => rw [stationSetOrder_inactive inactive]; rfl

theorem stationSetOrder_raises (c : SettingsChange) (st : Station) :
    (stationSetOrder c (Act.start st)).raises = [] := by
  by_cases active : st.state = .active
  · rw [stationSetOrder_active active]; rfl
  · rw [stationSetOrder_inactive active]; rfl

theorem exec_stationSet {s : State} {set : StationSet} {c : SettingsChange} (tag : Byte) (nonempty : set ≠ 0#8)
    (timeout : ∀ n, c.timeout = some n → n ≤ 255) (room : s.host.outstanding < 4) :
    exec (.stationSet tag set c) s = (s.countIn.serveOrder tag 0x17#8 set fun _ _ => stationSetOrder c).done :=
  congrArg State.done (State.request_served tag room (r := .stationSet set c) ((requestValid_iff _).mpr timeout)
    (by simp [requestBytes, settingsChangeBytes]) (earlyRefusal_eq_none rfl nonempty rfl))

/-- Settles O32: STATION SET is an order (`stationSetOrder_inactive`) whose line unit is the old one or the reset one,
as the change carries a scanner setting or not. -/
theorem stationSetChangesSettings : Obligations.StationSetChangesSettings := by
  intro tag set c s nonempty timeout room
  obtain ⟨t, run, quiet, ordered, stations⟩ := s.serveOrder_done tag 0x17#8 set (fun _ _ => stationSetOrder c)
    (fun i => stationSetOrder_outcome c (s.station i)) fun _ _ st => stationSetOrder_raises c st
  refine ⟨t, (exec_stationSet tag nonempty timeout room).trans run, quiet, ordered, fun i mem inactive => ?_⟩
  have applied := stationSetOrder_inactive inactive c
  refine ⟨fun absent => ?_, fun on carried => ?_⟩
  · rw [absent] at applied
    exact State.left_of_orders stations mem applied
  · rw [carried] at applied
    exact State.left_of_orders stations mem applied

end Sys2Proof.Machine
end

section
/-! REREAD as a command (R131, R134): the events that an order raises at the stations of its set, and the entry that
REREAD composes. -/

namespace Sys2Proof.Machine

/-! ## The events of an order (R134, R186) -/

/-- What raised events make of their station's flags depends on those flags and on the enables alone. -/
theorem EventUnit.raiseStations_flags_congr (ks : List StationEvent) {e e' : EventUnit} {i : StationId}
    (enables : e'.enables = e.enables) (flags : e'.stationFlags[i.val] = e.stationFlags[i.val]) :
    (ks.foldl (fun e k => e.raiseStation i k) e').stationFlags[i.val] =
      (ks.foldl (fun e k => e.raiseStation i k) e).stationFlags[i.val] := by
  induction ks generalizing e e' with
  | nil => exact flags
  | cons k ks ih => exact ih enables (by simp [EventUnit.raiseStation, EventUnit.stationEnables, enables, flags])

/-- ENTRY-READY raised sets the first flag of its station when its kind is enabled (R186, R194). -/
theorem EventUnit.raiseStation_entryReady_flags (e : EventUnit) (i : StationId) :
    (e.raiseStation i .entryReady).stationFlags[i.val] =
      if e.enables.getLsbD 0 = true then e.stationFlags[i.val] ||| 0x01#8 else e.stationFlags[i.val] := by
  have flag : (e.raiseStation i .entryReady).stationFlags[i.val] =
      e.stationFlags[i.val] ||| (BitVec.twoPow 8 0 &&& e.stationEnables) := Vector.getElem_set_self _
  have enabled : e.stationEnables.getLsbD 0 = e.enables.getLsbD 0 := by simp [EventUnit.stationEnables]
  rw [flag, BitVec.twoPow_and, enabled]
  split
  · rfl
  · exact BitVec.or_zero

/-- The events that an order raises: each station of its list captures its own, by the event unit before the order, and
the flags of the other stations, the part flags, the enables and the hold-off stay (R134, R186). -/
theorem State.orders_events (f : StationId → BitVec 8 → Act → OrderResult) (is : List StationId) (s : State)
    (nd : is.Nodup) :
    let t := (State.orders f is s).1
    t.events.partFlags = s.events.partFlags ∧ t.events.enables = s.events.enables ∧
      t.events.holdOff = s.events.holdOff ∧
      ∀ j : StationId, t.events.stationFlags[j.val] =
        if j ∈ is then
          ((s.resultAt f j).raises.foldl (fun e k => e.raiseStation j k) s.events).stationFlags[j.val]
        else s.events.stationFlags[j.val] := by
  induction is generalizing s with
  | nil => simp [State.orders]
  | cons i is ih =>
    obtain ⟨fresh, nd⟩ := List.nodup_cons.mp nd
    let here := (s.order i (f i (s.flagsOf i))).1
    have raised : here.events = (s.resultAt f i).raises.foldl (fun e k => e.raiseStation i k) s.events :=
      s.order_events i _
    obtain ⟨part', enables', holdOff', -⟩ :=
      EventUnit.raiseStations_frame (s.resultAt f i).raises s.events i
    rw [← raised] at part' enables' holdOff'
    obtain ⟨part, enables, holdOff, flags⟩ := ih here nd
    refine ⟨part.trans part', enables.trans enables', holdOff.trans holdOff', fun j => (flags j).trans ?_⟩
    by_cases self : j = i
    · subst self
      rw [if_neg fresh, if_pos List.mem_cons_self, raised]
    · have result : here.resultAt f j = s.resultAt f j := by
        rw [State.resultAt, State.resultAt, s.order_station_ne _ self, s.order_flagsOf_ne _ self]
      have kept : here.events.stationFlags[j.val] = s.events.stationFlags[j.val] := s.order_flagsOf_ne _ self
      rw [result, kept, EventUnit.raiseStations_flags_congr _ enables' kept]
      simp only [List.mem_cons, self, false_or]

/-! ## REREAD at one station (R131) -/

theorem rereadOrder_outcome (i : StationId) (st : Station) :
    (rereadOrder i (Act.start st)).outcome =
      match st.state, st.form with
      | .suspended, _ => .refused .suspended
      | .noForm, _ => .refused .noForm
      | .active, none => .refused .noForm
      | .active, some _ => if st.slot.isSome = true then .refused .pending else plainOutcome := by
  unfold rereadOrder
  rw [Act.start_station]
  cases st.state with
  | suspended => rfl
  | noForm => rfl
  | active =>
    cases st.form with
    | none => rfl
    | some x => dsimp only; split <;> rfl

/-- REREAD of an ACTIVE station with an empty slot composes the entry of its instance as it stands (R131). -/
theorem rereadOrder_active {st : Station} {x : FormInstance} (i : StationId) (active : st.state = .active)
    (form : st.form = some x) (empty : st.slot = none) :
    rereadOrder i (Act.start st) =
      .plain ⟨{ st with slot := some (composeEntry i .reread true x) }, [], false, [.entryReady]⟩ := by
  have composed : rereadOrder i (Act.start st) = .plain ((Act.start st).fillSlot (composeEntry i .reread true x)) := by
    simp only [rereadOrder, Act.start_station, active, form, empty, Option.isSome_none, Bool.false_eq_true, if_false]
  exact composed

/-- REREAD raises ENTRY-READY where it composes an entry, and nothing where it is refused (R131, R134). -/
theorem rereadOrder_raises (i : StationId) (st : Station) :
    (rereadOrder i (Act.start st)).raises =
      if st.state = .active ∧ st.form.isSome = true ∧ st.slot = none then [.entryReady] else [] := by
  cases state : st.state with
  | suspended => simp only [rereadOrder, Act.start_station, state]; rfl
  | noForm => simp only [rereadOrder, Act.start_station, state]; rfl
  | active =>
    cases form : st.form with
    | none => simp only [rereadOrder, Act.start_station, state, form]; rfl
    | some x =>
      cases slot : st.slot with
      | none => rw [rereadOrder_active i state form slot]; rfl
      | some e => simp only [rereadOrder, Act.start_station, state, form, slot]; rfl

/-! ## REREAD over its set -/

theorem exec_reread {s : State} {set : StationSet} (tag : Byte) (some : set ≠ 0#8) (room : s.host.outstanding < 4) :
    exec (.reread tag set) s = (s.countIn.serveOrder tag 0x16#8 set fun i _ => rereadOrder i).done :=
  congrArg State.done (State.request_served tag room (r := .reread set) rfl (by simp [requestBytes])
    (earlyRefusal_eq_none rfl some rfl))

/-- Settles O31: REREAD is an order, written out where it composes (`rereadOrder_active`), whose only event is the
ENTRY-READY of each station that composes (`rereadOrder_raises`, `State.orders_events`). -/
theorem rereadComposesAnEntry : Obligations.RereadComposesAnEntry := by
  intro tag set s some room
  let f : StationId → BitVec 8 → Act → OrderResult := fun i _ => rereadOrder i
  obtain ⟨part, enables, holdOff, flags⟩ := State.orders_events f (members set) s.countIn (members_nodup set)
  refine ⟨_, exec_reread tag some room, ?_, fun i x mem active form empty => ?_, part, enables, holdOff, fun i => ?_⟩
  · exact State.ordered_of_orders (f := f) (fun i => rereadOrder_outcome i (s.station i)) (fun _ => rfl)
      (State.orders_library ..) (State.orders_pending ..)
      (congrArg (fun h : HostLine => h.send _) (State.orders_host ..))
  · exact State.left_of_orders (f := f) (fun _ => rfl) mem (rereadOrder_active i active form empty)
  · refine (flags i).trans ?_
    have raises : (s.countIn.resultAt f i).raises = _ := rereadOrder_raises i (s.station i)
    by_cases mem : set.getLsbD i.val = true
    · rw [if_pos ((mem_members set i).mpr mem), raises, EventUnit.raise_if]
      by_cases composes : (s.station i).state = .active ∧ (s.station i).form.isSome = true ∧ (s.station i).slot = none
      · rw [if_pos composes]
        simp only [mem, composes, true_and]
        exact s.events.raiseStation_entryReady_flags i
      · rw [if_neg composes, if_neg fun ⟨_, active, form, empty, _⟩ => composes ⟨active, form, empty⟩]
        rfl
    · rw [if_neg (mt (mem_members set i).mp mem), if_neg fun ⟨inside, _⟩ => mem inside]
      rfl

end Sys2Proof.Machine
end

section
/-! ATTN and ALIVE as messages of a station line (R129, R155, R157, R159). -/

namespace Sys2Proof.Machine

/-- What ATTN makes of an event that has heard it: in ACTIVE the attention flag set, with ATTENTION raised when it was
clear (R129). -/
theorem Act.handOn_attn (st : Station) :
    (Act.start st).hear.handOn .attn =
      ⟨{ st with
          attention := if st.state = .active then true else st.attention
          line := st.hear.line.setScan st.line.scanErrors st.line.scanner },
        [], false,
        (if st.line.up = true then [] else [.lineUp]) ++
          if st.state = .active ∧ st.attention = false then [.attention] else []⟩ := by
  show (Act.start st).hear.attention = _
  rw [Act.start_hear, Station.hear_setScan]
  unfold Act.attention
  dsimp only
  by_cases sets : st.state = .active ∧ st.attention = false
  · rw [if_pos sets, if_pos sets, if_pos sets.1]
    rfl
  · have kept : (if st.state = .active then true else st.attention) = st.attention := by
      cases flag : st.attention with
      | true => exact ite_self _
      | false => exact if_neg fun active => sets ⟨active, flag⟩
    rw [if_neg sets, if_neg sets, kept, List.append_nil]

/-- ALIVE hands nothing on (R155). -/
theorem Act.handOn_alive (st : Station) :
    (Act.start st).hear.handOn .alive =
      ⟨{ st with line := st.hear.line.setScan st.line.scanErrors st.line.scanner }, [], false,
        if st.line.up = true then [] else [.lineUp]⟩ := by
  rw [Station.hear_setScan]
  exact Act.start_hear st

/-- Settles O43: each row hears its message (`State.receive_heard`), and ATTN alone hands something on. -/
theorem attnAndAlive : Obligations.AttnAndAlive := by
  intro i s
  constructor
  · obtain ⟨t, run, others, ⟨composer, kept, left, starts⟩, events⟩ :=
      s.receive_heard i (type := 0x03#8) (body := []) rfl (after := { s.station i with attention := ite _ _ _ })
        (Act.handOn_attn (s.station i))
    rw [LineUnit.heard_setScan] at kept left
    refine ⟨t, run, others, composer, kept, left, starts, events.trans (congrArg EventUnit.drive ?_)⟩
    rw [List.foldl_append, EventUnit.raise_unless, EventUnit.raise_if]
  · obtain ⟨t, run, others, ⟨composer, kept, left, starts⟩, events⟩ :=
      s.receive_heard i (type := 0x04#8) (body := []) rfl (after := s.station i) (Act.handOn_alive (s.station i))
    rw [LineUnit.heard_setScan] at kept left
    refine ⟨t, run, others, composer, kept, left, starts, events.trans (congrArg EventUnit.drive ?_)⟩
    rw [EventUnit.raise_unless]

end Sys2Proof.Machine
end

section
/-! Short sends, CLEAR and the response timer (R116, R124, R125, R127). -/

namespace Sys2Proof.Machine

/-! ## Short sends and CLEAR (R116, R124) -/

/-- The instance of which a short send or a CLEAR composes its entry: CLEAR restores the form first (R124, R125). -/
def FormInstance.sentBy (x : FormInstance) (k : SendKey) : FormInstance :=
  if k = .clear then ({ x with insert := false } : FormInstance).restore else { x with insert := false }

/-- CANCEL, the short keys of the form and CLEAR compose an entry without field lists into an empty slot (R116). -/
theorem itemAct_shortSend (l : Library) (i : StationId) {k : SendKey} {a : Act} {x : FormInstance}
    (short : k = .cancel ∨ k = .clear ∨ ∃ n, k = .function n ∧ x.defn.shortKeys.getLsbD n.val = true)
    (free : a.station.slot = none) :
    itemAct l i (.intent k) a x = a.compose i k false (x.sentBy k) := by
  have send (go : Act → FormInstance → Act) : a.send x go = go a { x with insert := false } := if_neg (by simp [free])
  obtain rfl | rfl | ⟨n, rfl, listed⟩ := short
  · exact send fun a y => a.compose i .cancel false y
  · exact send fun a y => a.compose i .clear false y.restore
  · exact (send fun a y => a.functionSend i n y).trans (if_pos listed)

/-! ## The form restored (R125) -/

/-- A record restored, field by field (R125 steps 1 and 2, log 23). -/
theorem FieldRec.restored_eq (f : FieldRec) :
    f.restored =
      { f with
        content := if f.kind = .input then padCut f.defn.length f.defn.default else f.content
        touched := if f.kind = .input then false else f.touched
        mark := none } := by
  unfold FieldRec.restored FieldRec.isInput
  cases f.kind <;> rfl

/-- What CLEAR leaves of an instance: its records restored and the rules run on them, page 1 current and alone visited,
and the cursor as HOME places it (R125). -/
theorem FormInstance.restore_eq (x : FormInstance) :
    x.restore =
      { x with
        fields := x.restore.fields
        page := 1
        visited := 0b0001#4
        cursor := firstStart (x.restore.inputsOn 1) } := by
  have ran := FormInstance.runRules_eq x.order { x with fields := x.fields.map FieldRec.restored }
  have home : x.restore.cursor = firstStart (x.restore.inputsOn 1) := rfl
  rw [← home]
  unfold FormInstance.restore FormInstance.recomputeAll
  dsimp only
  rw [ran]
  rfl

/-- Each record restored has the rules run on it at most (R98, R125). -/
theorem FormInstance.restore_ranTo (x : FormInstance) :
    List.Forall₂ (fun f g => f.restored.RanTo x.defn.rules g) x.fields x.restore.fields :=
  List.forall₂_map_left_iff.mp
    (FormInstance.runRules_ranTo x.order { x with fields := x.fields.map FieldRec.restored })

/-- Settles O56: such a send composes its entry (`itemAct_shortSend`), and CLEAR restores the records and then runs the
rules, which change results and contents of their targets alone (`FormInstance.restore_ranTo`). -/
theorem shortAndClearingSends : Obligations.ShortAndClearingSends := by
  constructor
  · intro i s x k q short taken free
    obtain ⟨t, run, events, made⟩ :=
      taken.makes (itemAct_shortSend s.library i short free) (Act.composed_compose ..).line
    obtain ⟨station, repaint, tones⟩ :=
      Act.compose_station (Act.start { s.station i with queue := q }) i k false (x.sentBy k)
    rw [station, repaint, tones] at made
    rw [(Act.composed_compose ..).raised] at events
    exact ⟨t, run, events, made⟩
  · rintro x y rfl
    have ran := x.restore_ranTo
    rw [x.restore_eq]
    refine ⟨rfl, rfl, rfl, rfl, rfl, rfl, rfl, rfl, rfl, rfl, ran.length_eq.symm, fun n f g hf hg => ?_⟩
    obtain ⟨same, untargeted⟩ := forall₂_getElem? ran hf hg
    rw [FieldRec.restored_eq] at same untargeted
    refine ⟨?_, ?_, ?_, ?_, fun free => ?_⟩
    · rw [same]
    · rw [same]
    · rw [same]
    · rw [same]
    · rw [untargeted free]

/-! ## The response timer (R127) -/

/-- Settles O47: the expiry is one event, which stops the timer and raises RESPONSE-TIMEOUT. -/
theorem responseTimerExpires : Obligations.ResponseTimerExpires := by
  intro i s running
  have run : exec (.responseTimerExpiry i) s = (s.event i Act.expire).done := if_pos running
  exact ⟨_, run, rfl, State.event_made (f := Act.expire) (.of_line rfl)⟩

end Sys2Proof.Machine
end

section
/-! NOTICE, HOLD and RELEASE as commands (R136, R146 to R148): the orders that do the same at every station that holds
an instance. -/

namespace Sys2Proof.Machine

/-! ## An order that does the same to every instance -/

theorem Station.holdsForm_iff (st : Station) :
    st.holdsForm = true ↔ st.state ≠ .noForm ∧ ∃ x, st.form = some x := by
  simp [Station.holdsForm, Option.isSome_iff_exists]

/-- An order that needs an instance and makes one event whichever instance it finds (R136). -/
theorem withForm_plain {st : Station} {k : FormInstance → OrderResult} {a : Act} (plain : ∀ x, k x = .plain a) :
    withForm (Act.start st) k = if st.holdsForm = true then .plain a else .refused .noForm := by
  split
  · next holds =>
    obtain ⟨state, x, form⟩ := st.holdsForm_iff.mp holds
    rw [withForm_some state form, plain]
  · next lacks =>
    refine withForm_none ?_ k
    cases form : st.form with
    | none => exact .inr rfl
    | some x => exact .inl (Classical.not_not.mp fun state => lacks (st.holdsForm_iff.mpr ⟨state, x, form⟩))

/-- Such an order over its set, where its event raises nothing and asks no repaint: refused NOFORM at the stations
without an instance, and at the others the station and the tones that it gives them (R134 to R136). -/
theorem State.serveOrder_plain {f : Act → OrderResult} {after : Station → Station} {tones : Station → List Tone}
    (order : ∀ st, f (Act.start st) =
      if st.holdsForm = true then .plain ⟨after st, tones st, false, []⟩ else .refused .noForm)
    (s : State) (tag kind : Byte) (set : StationSet) :
    ∃ t, (s.countIn.serveOrder tag kind set fun _ _ => f).done = .next t ∧ s.EventsQuiet t ∧
      s.Ordered t tag kind set (fun i =>
        if (s.station i).holdsForm = true then plainOutcome else .refused .noForm) ∧
      ∀ i, set.getLsbD i.val = true → (s.station i).holdsForm = true →
        s.Left t i (after (s.station i)) false (tones (s.station i)) ∧
          (after (s.station i)).LineKept (t.station i) := by
  have outcome (st : Station) :
      (f (Act.start st)).outcome = if st.holdsForm = true then plainOutcome else .refused .noForm := by
    rw [order]
    split <;> rfl
  have quiet (st : Station) : (f (Act.start st)).raises = [] := by
    rw [order]
    split <;> rfl
  obtain ⟨t, run, events, ordered, stations⟩ := s.serveOrder_done tag kind set (fun _ _ => f)
    (fun i => outcome (s.station i)) fun _ _ st => quiet st
  refine ⟨t, run, events, ordered, fun i mem holds => ?_⟩
  exact State.left_of_orders stations mem ((order (s.station i)).trans (if_pos holds))

/-! ## The three orders at one station (R146 to R148) -/

/-- NOTICE sets the notice, and asks its tone in ACTIVE alone (R146, R147). -/
theorem noticeOrder_eq (tone : Option Tone) (text : List Byte) (st : Station) :
    noticeOrder tone text (Act.start st) =
      if st.holdsForm = true then
        .plain ⟨{ st with notice := padCut Config.noticeText text },
          if st.state = .active then tone.toList else [], false, []⟩
      else .refused .noForm := by
  refine withForm_plain fun _ => ?_
  rw [Act.start_station]
  cases tone with
  | none => dsimp only; rw [Option.toList_none, ite_self]; rfl
  | some t => dsimp only; split <;> rfl

/-- HOLD makes the keyboard HELD, and stops the timer of a WAITING one (R148). -/
theorem holdOrder_eq (st : Station) :
    holdOrder (Act.start st) =
      if st.holdsForm = true then
        .plain ⟨{ st with
            keyboard := .held
            timer := if st.keyboard = .waiting then none else st.timer }, [], false, []⟩
      else .refused .noForm := by
  refine withForm_plain fun _ => ?_
  rw [Act.start_station]
  split <;> rfl

/-- RELEASE makes a HELD keyboard FREE, and leaves every other (R148). -/
theorem releaseOrder_eq (st : Station) :
    releaseOrder (Act.start st) =
      if st.holdsForm = true then
        .plain ⟨{ st with keyboard := if st.keyboard = .held then .free else st.keyboard }, [], false, []⟩
      else .refused .noForm := by
  refine withForm_plain fun _ => ?_
  rw [Act.start_station]
  split <;> rfl

/-! ## The three orders as commands -/

theorem exec_notice {s : State} {set : StationSet} {text : List Byte} (tag : Byte) (tone : Option Tone)
    (nonempty : set ≠ 0#8) (valid : textValid 0 40 text = true) (room : s.host.outstanding < 4) :
    exec (.notice tag set tone text) s =
      (s.countIn.serveOrder tag 0x12#8 set fun _ _ => noticeOrder tone text).done := by
  obtain ⟨-, short, printed⟩ := textValid_iff.mp valid
  have decodes : requestValid (.notice set tone text) = true :=
    textValid_iff.mpr ⟨Nat.zero_le _, short.trans (by decide), printed⟩
  have fits : (requestBytes (.notice set tone text)).length ≤ 1024 := by
    simp only [requestBytes, textBytes, List.length_cons]
    omega
  have early : overLength (.notice set tone text) = false := decide_eq_false (Nat.not_lt.mpr short)
  exact congrArg State.done (State.request_served tag room decodes fits (earlyRefusal_eq_none rfl nonempty early))

theorem exec_hold {s : State} {set : StationSet} (tag : Byte) (nonempty : set ≠ 0#8) (room : s.host.outstanding < 4) :
    exec (.hold tag set) s = (s.countIn.serveOrder tag 0x13#8 set fun _ _ => holdOrder).done :=
  congrArg State.done (State.request_served tag room (r := .hold set) rfl (by simp [requestBytes])
    (earlyRefusal_eq_none rfl nonempty rfl))

theorem exec_release {s : State} {set : StationSet} (tag : Byte) (nonempty : set ≠ 0#8)
    (room : s.host.outstanding < 4) :
    exec (.release tag set) s = (s.countIn.serveOrder tag 0x14#8 set fun _ _ => releaseOrder).done :=
  congrArg State.done (State.request_served tag room (r := .release set) rfl (by simp [requestBytes])
    (earlyRefusal_eq_none rfl nonempty rfl))

/-- Settles O29: each of the three is an order that does the same to every instance (`State.serveOrder_plain`), and a
notice text of at most 40 characters is padded, never cut. -/
theorem noticeHoldAndRelease : Obligations.NoticeHoldAndRelease := by
  refine ⟨fun tag set tone text s nonempty valid room => ?_, fun tag set s nonempty room => ⟨?_, ?_⟩⟩
  · obtain ⟨-, short, -⟩ := textValid_iff.mp valid
    have padded : padCut Config.noticeText text = text ++ List.replicate (40 - text.length) blank := by
      rw [padCut_eq, List.take_of_length_le (show text.length ≤ Config.noticeText from short)]
      rfl
    obtain ⟨t, run, made⟩ := s.serveOrder_plain (noticeOrder_eq tone text) tag 0x12#8 set
    rw [← padded]
    exact ⟨t, (exec_notice tag tone nonempty valid room).trans run, made⟩
  · obtain ⟨t, run, made⟩ := s.serveOrder_plain holdOrder_eq tag 0x13#8 set
    exact ⟨t, (exec_hold tag nonempty room).trans run, made⟩
  · obtain ⟨t, run, made⟩ := s.serveOrder_plain releaseOrder_eq tag 0x14#8 set
    exact ⟨t, (exec_release tag nonempty room).trans run, made⟩

end Sys2Proof.Machine
end

section
/-! The fields of a WRITE (R139 to R143): ERASE-INPUT, the updates one by one, CLEAR-MARKS and RESET-TOUCHED. -/

namespace Sys2Proof.Machine

/-! ## The field options (R139) -/

theorem FieldRec.blanked_eq (f : FieldRec) :
    f.blanked =
      { f with content := List.replicate f.defn.length blank, touched := false, mark := none } := by
  simp [FieldRec.blanked, FieldRec.fill, padCut_eq]

/-- ERASE-INPUT on every page: the input fields are those whose effective kind is INPUT (R33, R139). -/
theorem FormInstance.eraseInputs_all (x : FormInstance) :
    (x.eraseInputs fun _ => true) =
      ({ x with
          fields := x.fields.map fun f =>
            if f.kind = .input then
              { f with content := List.replicate f.defn.length blank, touched := false, mark := none }
            else f } : FormInstance).recompute
        ((x.fields.filter fun f => f.kind == .input).map fun f => f.defn.number) := by
  simp only [FormInstance.eraseInputs, FormInstance.modFields, FieldRec.blanked_eq, FieldRec.isInput, Bool.and_true,
    beq_iff_eq]

/-- CLEAR-MARKS and then RESET-TOUCHED, record by record (R139). -/
theorem FormInstance.marksAndTouched_eq (x : FormInstance) (clearMarks resetTouched : Bool) :
    (let unmarked := if clearMarks then x.modFields (fun _ => true) fun f => { f with mark := none } else x
      if resetTouched then unmarked.modFields (fun _ => true) fun f => { f with touched := false } else unmarked) =
      { x with
        fields := x.fields.map fun f =>
          { f with
            mark := if clearMarks = true then none else f.mark
            touched := if resetTouched = true then false else f.touched } } := by
  have unchanged : x.fields.map (fun f : FieldRec => { f with mark := f.mark, touched := f.touched }) = x.fields :=
    List.map_id x.fields
  cases clearMarks <;> cases resetTouched <;> simp [FormInstance.modFields, Function.comp_def, unchanged]

/-! ## One update (R140 to R143) -/

/-- Why an update of a field that the instance holds is skipped: COMPUTED before KEPT (R140). -/
theorem skipReason_some {policy : Policy} {k : Keyboard} {x : FormInstance} {u : Update} {f : FieldRec}
    (found : x.field? u.field = some f) :
    skipReason policy k x u =
      if x.isComputed f = true then some .computed
      else if f.kind = .input ∧ f.touched = true ∧ (k ≠ .waiting ∧ k ≠ .timedOut ∧ k ≠ .held) ∧ policy = .keep then
        some .kept
      else none := by
  simp only [skipReason, found, FieldRec.isInput, Bool.and_eq_true, beq_iff_eq, and_assoc]
  cases k <;> simp

/-- An update of a field that the instance does not hold is skipped (R140). -/
theorem skipReason_none {policy : Policy} {k : Keyboard} {x : FormInstance} {u : Update}
    (absent : x.field? u.field = none) : skipReason policy k x u = some .unknown := by
  simp only [skipReason, absent]

theorem Written.update_skipped {policy : Policy} {k : Keyboard} {w : Written} {u : Update} {r : SkipReason}
    (skipped : skipReason policy k w.form u = some r) :
    w.update policy k u = { w with skipped := w.skipped ++ [(u.field, r)] } := by
  simp only [Written.update, skipped]

/-- An update taken: the override it carries replaces the field's, and its text is cut when it is longer than the field
(R141, R142). -/
theorem Written.update_applied {policy : Policy} {k : Keyboard} {w : Written} {u : Update} {f : FieldRec}
    (found : w.form.field? u.field = some f) (taken : skipReason policy k w.form u = none) :
    w.update policy k u =
      { form := (w.form.modField u.field fun g =>
          { g with
            content := padCut g.defn.length u.text
            touched := false
            mark := none
            override := u.override.orElse fun _ => g.override }).recompute [u.field]
        skipped := w.skipped
        cut := if f.defn.length < u.text.length then w.cut ++ [u.field] else w.cut } := by
  have cuts : w.form.cuts u = true ↔ f.defn.length < u.text.length := by
    simp [FormInstance.cuts, found]
  have updated (g : FieldRec) : g.updated u =
      { g with
        content := padCut g.defn.length u.text
        touched := false
        mark := none
        override := u.override.orElse fun _ => g.override } := by
    unfold FieldRec.updated
    cases u.override <;> rfl
  simp only [Written.update, taken, cuts, updated]

/-- Settles O28: the field options record by record, and each update by the reason for which it is skipped
(`skipReason_some`), or else applied (`Written.update_applied`). -/
theorem updatesAreSkippedOrApplied : Obligations.UpdatesAreSkippedOrApplied := by
  refine ⟨fun w policy k x => ?_, fun policy k w u => ⟨fun absent => ?_, fun f found => ⟨fun computed => ?_,
    fun free input touched keying keep => ?_, fun free taken => ?_⟩⟩⟩
  · rw [← FormInstance.eraseInputs_all]
    intro erased updated
    rw [← FormInstance.marksAndTouched_eq]
    rfl
  · exact Written.update_skipped (skipReason_none absent)
  · exact Written.update_skipped ((skipReason_some found).trans (if_pos computed))
  · have unlocked : k ≠ .waiting ∧ k ≠ .timedOut ∧ k ≠ .held := by
      obtain rfl | ⟨r, rfl⟩ := keying <;> simp
    refine Written.update_skipped ((skipReason_some found).trans ?_)
    rw [if_neg (by simp [free]), if_pos ⟨input, touched, unlocked, keep⟩]
  · refine Written.update_applied found ((skipReason_some found).trans ?_)
    rw [if_neg (by simp [free]), if_neg]
    rintro ⟨input, touched, ⟨notWaiting, notTimedOut, notHeld⟩, keep⟩
    obtain fixed | untouched | (waiting | timedOut | held) | override := taken
    · rw [input] at fixed
      cases fixed
    · rw [touched] at untouched
      cases untouched
    · exact notWaiting waiting
    · exact notTimedOut timedOut
    · exact notHeld held
    · rw [keep] at override
      cases override

end Sys2Proof.Machine
end

section
/-! Requests turned away before they are carried out (R172, R173). -/

namespace Sys2Proof.Machine

/-- Every request row is its request as it arrives (log 1). -/
theorem exec_requestRow (tag : Byte) (r : Request) (s : State) :
    exec (requestRow tag r) s = (s.request tag r).done := by
  cases r <;> rfl

/-- A request that arrives while 4 are outstanding is an overrun, whatever it asks (R172). -/
theorem State.request_overrun {s : State} {r : Request} (tag : Byte) (fits : (requestBytes r).length ≤ 1024)
    (full : 4 ≤ s.host.outstanding) : s.request tag r = s.overrun := by
  have short : ¬Config.payloadCapacity < (requestBytes r).length := Nat.not_lt.mpr fits
  have taken : ¬s.host.outstanding < Config.outstandingRequests := Nat.not_lt.mpr full
  rw [State.request, if_neg short, State.accept, if_neg taken]

/-- A request with room is refused by the first of the steps 2 to 4 of R173 that fails. -/
theorem State.request_refused {s : State} {r : Request} {c : RefuseCode} (tag : Byte)
    (fits : (requestBytes r).length ≤ 1024) (room : s.host.outstanding < 4)
    (refused : (if requestValid r = false then some .format else earlyRefusal r) = some c) :
    s.request tag r = s.countIn.respond tag (.refuse (kindCode r) (.code c)) := by
  have short : ¬Config.payloadCapacity < (requestBytes r).length := Nat.not_lt.mpr fits
  have accepted : s.host.outstanding < Config.outstandingRequests := room
  rw [State.request, if_neg short, State.accept, if_pos accepted]
  cases valid : requestValid r with
  | false =>
    rw [if_pos valid] at refused
    cases refused
    rfl
  | true =>
    rw [if_neg (by simp [valid])] at refused
    simp only [if_true, State.decide, refused]

/-- Only a WRITE and a NOTICE can be too long (R173 step 4). -/
theorem overLength_iff (r : Request) :
    overLength r = true ↔
      (∃ set w, r = .write set w ∧ (64 < w.updates.length ∨ ∃ u ∈ w.updates, 79 < u.text.length)) ∨
        ∃ set tone text, r = .notice set tone text ∧ 40 < text.length := by
  cases r with
  | write set w =>
    simp only [overLength, Bool.or_eq_true, List.any_eq_true, decide_eq_true_eq]
    simp [Config.updatesPerWrite, Config.updateText]
  | notice set tone text =>
    simp only [overLength, decide_eq_true_eq]
    simp [Config.noticeText]
  | _ => simp [overLength]

/-- Settles O21: an overrun is counted and raised and nothing else (`State.request_overrun`), and a refusal is one
answer (`State.request_refused`). -/
theorem requestsAreTurnedAway : Obligations.RequestsAreTurnedAway := by
  refine ⟨fun r => by cases r <;> rfl, overLength_iff,
    fun r tag s fits => ⟨fun full => ?_, fun c room refused => ?_⟩⟩
  · rw [exec_requestRow, State.request_overrun tag fits full]
    exact ⟨_, rfl, rfl, rfl, fun _ => rfl, rfl, rfl⟩
  · rw [exec_requestRow, State.request_refused tag fits room refused]
    exact ⟨_, rfl, rfl, rfl, fun _ => rfl, rfl, rfl⟩

end Sys2Proof.Machine
end

section
/-! The paint engine leaves nothing unsent, a repaint in progress goes on, and a DOWN line is quiet (R157, R158, R162 to
R168). -/

namespace Sys2Proof.Machine

/-! ## A line unit handed what an event changed (R42, R161, R168) -/

/-- A property that a repaint request, a changed paint queue and, on an UP line, a pending tone keep is kept by
everything that an event hands to its line unit. -/
theorem Act.handed_keeps {P : LineUnit → Prop} (repaint : ∀ {l}, P l → P l.requestRepaint)
    (queue : ∀ {l} q, P l → P { l with paintQueue := q })
    (tone : ∀ {l} t, l.up = true → P l → P { l with tone := some t }) {a : Act} (h : P a.station.line)
    (before after : Image) : P (a.handed before after) := by
  have span (l : LineUnit) (hl : P l) (m : Span) : P (l.handSpan m) := by
    obtain e | ⟨-, e⟩ := l.handSpan_cases m
    · rw [e]
      exact hl
    · rw [e]
      unfold LineUnit.enqueue
      split
      · exact queue _ hl
      · split
        · exact queue _ hl
        · exact repaint hl
  have ask (l : LineUnit) (hl : P l) (t : Tone) : P (l.askTone t) := by
    unfold LineUnit.askTone
    split
    · next up => exact tone _ up hl
    · exact hl
  have painted : P (if a.repaint then a.station.line.requestRepaint
      else (imageSpans 1 before after).foldl LineUnit.handSpan a.station.line) := by
    split
    · exact repaint h
    · exact List.foldlRecOn _ _ h fun l hl m _ => span l hl m
  unfold Act.handed
  dsimp only
  split
  · exact List.foldlRecOn _ _ painted fun l hl t _ => ask l hl t
  · exact painted

/-! ## What holds of a line unit when the engine is to choose -/

theorem LineUnit.downSound_iff {l : LineUnit} : l.DownSound ↔
    (l.up = true → l.silence = some Config.silenceSeconds) ∧
      (l.up = false → l.silence = none ∧ l.inFlight = none ∧ l.repaint = none ∧ l.repaintAll = true ∧ l.tone = none ∧
        l.lastCursor = none) := by
  unfold LineUnit.DownSound
  cases l.up <;> simp

/-- The rows of a repaint in progress, whether its message is still in flight or has just completed (R163, R166). -/
def LineUnit.RowsSound (l : LineUnit) : Prop :=
  ∀ r, l.repaint = some r → 1 ≤ r ∧ r ≤ 25 ∧ (r = 25 → ∃ text runs, l.inFlight = some (.paint 24 1 text runs))

/-- What an event keeps of its line unit until the engine chooses. -/
def LineUnit.Ready (l : LineUnit) : Prop := l.DownSound ∧ l.RowsSound

theorem LineUnit.RepaintSound.rows {l : LineUnit} (h : l.RepaintSound) : l.RowsSound := fun r going =>
  have ⟨lo, hi, _, last⟩ := h r going
  ⟨lo, hi, last⟩

theorem LineUnit.RowsSound.repaintSound {l : LineUnit} (h : l.RowsSound)
    (busy : l.repaint.isSome = true → l.inFlight.isSome = true) : l.RepaintSound := fun r going =>
  have ⟨lo, hi, last⟩ := h r going
  ⟨lo, hi, busy (by rw [going]; rfl), last⟩

theorem LineUnit.rowsSound_of_none {l : LineUnit} (ended : l.repaint = none) : l.RowsSound := by
  intro r going
  rw [ended] at going
  cases going

section Ready

variable {l : LineUnit} (h : l.Ready)
include h

theorem LineUnit.Ready.requestRepaint : l.requestRepaint.Ready := by
  obtain ⟨down, -⟩ := h
  obtain ⟨runs, quiet⟩ := LineUnit.downSound_iff.mp down
  refine ⟨LineUnit.downSound_iff.mpr ⟨runs, fun isDown => ?_⟩, LineUnit.rowsSound_of_none rfl⟩
  obtain ⟨silence, inFlight, -, -, tone, cursor⟩ := quiet isDown
  exact ⟨silence, inFlight, rfl, rfl, tone, cursor⟩

theorem LineUnit.Ready.askedTone (t : Tone) (up : l.up = true) : LineUnit.Ready { l with tone := some t } := by
  obtain ⟨down, rows⟩ := h
  refine ⟨LineUnit.downSound_iff.mpr ⟨(LineUnit.downSound_iff.mp down).1, fun isDown => ?_⟩, rows⟩
  exact absurd (up.symm.trans isDown) (by decide)

theorem LineUnit.Ready.droppedTone : LineUnit.Ready { l with tone := none } := by
  obtain ⟨down, rows⟩ := h
  obtain ⟨runs, quiet⟩ := LineUnit.downSound_iff.mp down
  refine ⟨LineUnit.downSound_iff.mpr ⟨runs, fun isDown => ?_⟩, rows⟩
  obtain ⟨silence, inFlight, repaint, all, -, cursor⟩ := quiet isDown
  exact ⟨silence, inFlight, repaint, all, rfl, cursor⟩

end Ready

theorem LineUnit.Ready.handed {a : Act} (h : a.station.line.Ready) (before after : Image) :
    (a.handed before after).Ready :=
  Act.handed_keeps (P := LineUnit.Ready) (fun h => h.requestRepaint) (fun _ h => h) (fun t up h => h.askedTone t up) h
    before after

/-! ## What the engine leaves (R164 to R167) -/

/-- Nothing is unsent: no tone, no repaint, no span, and the cursor is the last one sent (R164, R167). -/
def LineUnit.NothingUnsent (l : LineUnit) (cursor : Nat) : Prop :=
  l.tone = none ∧ l.repaint = none ∧ l.repaintAll = false ∧ l.paintQueue = [] ∧ l.lastCursor = some cursor

/-- The rows of a repaint are sound, and either a message is in flight or nothing is unsent. -/
def LineUnit.Chosen (l : LineUnit) (cursor : Nat) : Prop :=
  l.RowsSound ∧ (l.inFlight.isSome = true ∨ l.NothingUnsent cursor)

theorem nextSpan_eq_none {q : List Span} (h : nextSpan q = none) : q = [] := by
  unfold nextSpan at h
  split at h
  · cases h
  · exact List.head?_eq_none_iff.mp h

theorem LineUnit.startOther_chosen {l : LineUnit} (quiet : l.tone = none) (ended : l.repaint = none) (img : Image)
    (cursor : Nat) : (l.startOther img cursor).Chosen cursor := by
  unfold LineUnit.startOther
  split
  · refine ⟨fun r going => ?_, .inl rfl⟩
    cases going
    exact ⟨le_rfl, by decide, fun e => nomatch e⟩
  · next all =>
    split
    · exact ⟨LineUnit.rowsSound_of_none ended, .inl rfl⟩
    · next none =>
      split
      · next sent =>
        exact ⟨LineUnit.rowsSound_of_none ended,
          .inr ⟨quiet, ended, Bool.eq_false_iff.mpr all, nextSpan_eq_none none, sent⟩⟩
      · exact ⟨LineUnit.rowsSound_of_none ended, .inl rfl⟩

/-- A row of the repaint is sent in its order, row 24 last (R166). -/
theorem LineUnit.startNext_chosen {l : LineUnit} (rows : l.RowsSound) (idle : l.inFlight = none) (img : Image)
    (cursor : Nat) : (l.startNext img cursor).Chosen cursor := by
  have upTo24 : ∀ r, l.repaint = some r → 1 ≤ r ∧ r ≤ 24 := by
    intro r going
    obtain ⟨lo, hi, last⟩ := rows r going
    refine ⟨lo, Nat.le_of_lt_succ (lt_of_le_of_ne hi fun e => ?_)⟩
    obtain ⟨text, runs, busy⟩ := last e
    rw [idle] at busy
    cases busy
  unfold LineUnit.startNext
  split
  · refine ⟨fun r going => ?_, .inl rfl⟩
    obtain ⟨lo, hi⟩ := upTo24 r going
    exact ⟨lo, by omega, fun e => by omega⟩
  · next quiet =>
    split
    · next r going =>
      obtain ⟨-, hi⟩ := upTo24 r going
      rw [if_pos hi]
      refine ⟨fun n next => ?_, .inl rfl⟩
      cases next
      refine ⟨by omega, by omega, fun last => ?_⟩
      obtain rfl : r = 24 := by omega
      exact ⟨_, _, rfl⟩
    · next ended => exact LineUnit.startOther_chosen quiet ended img cursor

/-- After the engine's choice a DOWN line is quiet, a repaint in progress has its message in flight, and an UP line
with none in flight has nothing unsent. -/
theorem LineUnit.Ready.engine {l : LineUnit} (h : l.Ready) (img : Image) (cursor : Nat) :
    (l.engine img cursor).DownSound ∧ (l.engine img cursor).RepaintSound ∧
      ((l.engine img cursor).up = true → (l.engine img cursor).inFlight = none →
        (l.engine img cursor).NothingUnsent cursor) := by
  obtain ⟨down, rows⟩ := h
  obtain ⟨runs, quiet⟩ := LineUnit.downSound_iff.mp down
  by_cases chooses : l.up = true ∧ l.inFlight = none
  · obtain ⟨up, idle⟩ := chooses
    have started : l.engine img cursor = l.startNext img cursor := by
      rw [LineUnit.engine, up, idle]
      rfl
    rw [started]
    obtain ⟨rows, sent⟩ := LineUnit.startNext_chosen rows idle img cursor
    refine ⟨LineUnit.downSound_iff.mpr ⟨fun _ => ?_, fun isDown => ?_⟩, rows.repaintSound fun going => ?_,
      fun _ none => ?_⟩
    · rw [LineUnit.startNext_silence]
      exact runs up
    · rw [LineUnit.startNext_up, up] at isDown
      cases isDown
    · refine sent.resolve_right fun ⟨_, ended, _⟩ => ?_
      rw [ended] at going
      cases going
    · refine sent.resolve_left fun busy => ?_
      rw [none] at busy
      cases busy
  · have waits : l.up = false ∨ l.inFlight.isSome = true := by
      cases up : l.up with
      | false => exact .inl rfl
      | true => exact .inr (Option.isSome_iff_ne_none.mpr fun idle => chooses ⟨up, idle⟩)
    rw [LineUnit.engine_waits waits]
    refine ⟨down, rows.repaintSound fun going => waits.resolve_left fun isDown => ?_, fun up idle => ?_⟩
    · obtain ⟨-, -, ended, -⟩ := quiet isDown
      rw [ended] at going
      cases going
    · exact absurd ⟨up, idle⟩ chooses

/-! ## Every event -/

/-- What this chapter keeps of a station: a quiet DOWN line, a repaint that goes on, nothing unsent. -/
def Station.PaintSound (st : Station) : Prop := st.line.DownSound ∧ st.line.RepaintSound ∧ st.EngineSound

theorem Station.PaintSound.ready {st : Station} (h : st.PaintSound) : st.line.Ready := by
  obtain ⟨down, repaint, -⟩ := h
  exact ⟨down, repaint.rows⟩

theorem LineUnit.Ready.finish {a : Act} (h : a.station.line.Ready) (before : Image) : (a.finish before).PaintSound :=
  (h.handed before (composeImage a.station)).engine (composeImage a.station) a.station.cursorShown

theorem OrderMove.ready {l : Library} {i : StationId} {flags : BitVec 8} {st : Station} {a : Act}
    (move : OrderMove l i flags st a) (h : st.line.Ready) : a.station.line.Ready := by
  cases move with
  | wrote _ _ _ _ _ =>
    rw [Act.writeRest_eq]
    exact h
  | set c _ =>
    dsimp only
    split <;> exact h
  | reset => exact h.droppedTone
  | resumed _ =>
    cases form : st.form with
    | some x =>
      rw [Act.resume_some form]
      exact h
    | none =>
      rw [Act.resume_none form]
      exact h
  | _ => exact h

/-- The end of a transmission leaves the rows of a repaint to send, but for one that has sent row 24 (R166). -/
theorem Act.transmitted_ready {st : Station} (h : st.line.Ready) : (Act.start st).transmitted.station.line.Ready := by
  obtain ⟨down, rows⟩ := h
  obtain ⟨runs, quiet⟩ := LineUnit.downSound_iff.mp down
  rw [Act.transmitted_eq]
  refine ⟨LineUnit.downSound_iff.mpr ⟨runs, fun isDown => ?_⟩, fun r going => ?_⟩
  · obtain ⟨silence, -, ended, all, tone, cursor⟩ := quiet isDown
    dsimp only
    exact ⟨silence, rfl, by rw [ended, ite_self], all, tone, cursor⟩
  · dsimp only at going
    split at going
    · cases going
    · next unfinished =>
      rw [LineUnit.repaintDone_iff fun r going => (rows r going).2.1] at unfinished
      obtain ⟨lo, hi, -⟩ := rows r going
      exact ⟨lo, hi, fun last => absurd (last ▸ going) unfinished⟩

theorem ActMove.ready {l : Library} {i : StationId} {flags : BitVec 8} {st : Station} {a : Act}
    (move : ActMove l i flags st a) (h : st.line.Ready) : a.station.line.Ready := by
  cases move with
  | @taken it x _ =>
    obtain keyed | ⟨-, -, refused⟩ | ⟨-, -, composed⟩ := Act.takeItem_cases l i it (Act.start st) x
    · exact keyed.line ▸ h
    · rw [Act.Refused] at refused
      rw [refused]
      exact h
    · exact composed.line ▸ h
  | silent _ => exact ⟨⟨rfl, rfl, rfl, rfl, rfl, rfl⟩, LineUnit.rowsSound_of_none rfl⟩
  | sent _ => exact Act.transmitted_ready h
  | expires _ => exact h
  | collected _ => exact h
  | ordered valid order applied => exact (order_cases valid order applied).ready h
  | partReset => exact h.droppedTone

/-- A message restarts the silence timer, and on a DOWN line starts a repaint at its first row (R157, R159). -/
theorem LineUnit.Ready.heard {l : LineUnit} (h : l.Ready) : l.heard.Ready := by
  obtain ⟨-, rows⟩ := h
  unfold LineUnit.heard
  split
  · next up =>
    exact ⟨LineUnit.downSound_iff.mpr ⟨fun _ => rfl, fun down => absurd (up.symm.trans down) (by decide)⟩, rows⟩
  · refine ⟨rfl, fun r going => ?_⟩
    cases going
    exact ⟨le_rfl, by decide, fun e => nomatch e⟩

theorem LineMove.paintSound {st u : Station} (move : LineMove st u) (h : st.PaintSound) : u.PaintSound := by
  cases move with
  | read r => exact h
  | parity => exact h
  | framing => exact h
  | @accepted message _ =>
    obtain ⟨n, sc, line, -⟩ := (Act.arrived st message).line
    refine LineUnit.Ready.finish ?_ st.image
    rw [line, Station.hear_eq h.ready.1]
    exact h.ready.heard

/-- Settles O9: an event leaves its line unit ready for the engine's choice (`ActMove.ready`), after which nothing is
unsent (`LineUnit.Ready.engine`). -/
theorem stepKeepsThePaintEngine : Obligations.StepKeepsThePaintEngine := by
  intro s t h stepped i
  obtain ⟨-, down, repaint⟩ := LineUnit.reset_sound
  obtain ⟨engine, -⟩ := Station.reset_sound
  exact (step_station stepped i).keeps (P := Station.PaintSound) ⟨down, repaint, engine⟩
    (fun move sound => (move.ready sound.ready).finish _) (fun move sound => move.paintSound sound) (h i)

end Sys2Proof.Machine
end

section
/-! The silence timer's expiry (R157, R158). -/

namespace Sys2Proof.Machine

/-- A line unit with a repaint asked for takes no spans, and at the end of an event that asks for nothing a DOWN line
starts nothing: the line unit is left as the event made it (R161, R164). -/
theorem Act.finish_line_down {a : Act} (down : a.station.line.up = false) (all : a.station.line.repaintAll = true)
    (repaint : a.repaint = false) (tones : a.tones = []) (before : Image) :
    (a.finish before).line = a.station.line := by
  have spans : (imageSpans 1 before (composeImage a.station)).foldl LineUnit.handSpan a.station.line =
      a.station.line :=
    List.foldlRecOn (motive := (· = a.station.line)) _ _ rfl fun l same m _ => by
      rw [same]
      exact LineUnit.handSpan_discarded (.inl all)
  have handed : a.handed before (composeImage a.station) = a.station.line := by
    simp [Act.handed, repaint, tones, spans]
  show LineUnit.engine _ _ _ = _
  rw [handed, LineUnit.engine_waits (.inl down)]

theorem exec_silenceTimerExpiry {i : StationId} {s : State} (runs : (s.station i).line.silence.isSome = true) :
    exec (.silenceTimerExpiry i) s = (s.event i Act.lineDown).done := by
  show (if _ then _ else _) = _
  rw [if_pos runs]

/-- Settles O45: the expiry is one event, `Act.lineDown`, whose line unit is left as R158 gives
(`Act.finish_line_down`). -/
theorem silenceTakesTheLineDown : Obligations.SilenceTakesTheLineDown := by
  intro i s runs
  have there := s.event_station_self i Act.lineDown
  refine ⟨_, exec_silenceTimerExpiry runs, s.event_othersKept i Act.lineDown _, rfl, ?_, ?_⟩
  · show ((s.event i Act.lineDown).station i).composer = _
    rw [there]
    rfl
  · show ((s.event i Act.lineDown).station i).line = _
    rw [there]
    exact Act.finish_line_down rfl rfl rfl rfl _

end Sys2Proof.Machine
end

section
/-! The bytes of a station line (R155, R156, R199): the receiver reads a message byte by byte, a damaged message is
counted once, and what decodes is what R155 and R199 list. -/

namespace Sys2Proof.Machine

/-! ## What decodes (R155, R199) -/

theorem parseKey_iff {body : List Byte} {u : Upstream} :
    parseKey body = some u ↔ ∃ code it, body = [code] ∧ keyItem code = some it ∧ u = .key it := by
  match body with
  | [] => simp [parseKey]
  | [code] => simp [parseKey, eq_comm]
  | _ :: _ :: _ => simp [parseKey]

/-- The text of a good SCAN is printed and not empty; that of a bad one is not examined (R155, R199). -/
theorem parseScan_iff {body : List Byte} {u : Upstream} :
    parseScan body = some u ↔
      (∃ text, body = 1#8 :: text ∧ Printed 1 48 text ∧ u = .scan true text) ∨
        ∃ text, body = 0#8 :: text ∧ text.length ≤ 48 ∧ u = .scan false text := by
  cases body with
  | nil => simp [parseScan]
  | cons status text =>
    simp only [parseScan, List.cons.injEq]
    by_cases bad : status = 0#8
    · subst bad
      simp [eq_comm (a := u)]
    · by_cases good : status = 1#8
      · subst good
        simp [textValid_iff, eq_comm (a := u)]
      · simp [bad, good]

theorem decodeUpstream_iff (type : Byte) (body : List Byte) (u : Upstream) : decodeUpstream type body = some u ↔
    (∃ code it, type = 0x01#8 ∧ body = [code] ∧ keyItem code = some it ∧ u = .key it) ∨
    (∃ text, type = 0x02#8 ∧ body = 1#8 :: text ∧ 1 ≤ text.length ∧ text.length ≤ 48 ∧
      (∀ c ∈ text, 0x20 ≤ c.toNat ∧ c.toNat ≤ 0x7E) ∧ u = .scan true text) ∨
    (∃ text, type = 0x02#8 ∧ body = 0#8 :: text ∧ text.length ≤ 48 ∧ u = .scan false text) ∨
    (type = 0x03#8 ∧ body = [] ∧ u = .attn) ∨ (type = 0x04#8 ∧ body = [] ∧ u = .alive) := by
  constructor
  · intro decodes
    unfold decodeUpstream at decodes
    split at decodes
    · next e =>
      obtain rfl : type = 0x01#8 := BitVec.eq_of_toNat_eq e
      obtain ⟨code, it, key⟩ := parseKey_iff.mp decodes
      exact .inl ⟨code, it, rfl, key⟩
    · next e =>
      obtain rfl : type = 0x02#8 := BitVec.eq_of_toNat_eq e
      obtain ⟨text, good, ⟨lo, hi, printed⟩, scan⟩ | ⟨text, bad⟩ := parseScan_iff.mp decodes
      · exact .inr (.inl ⟨text, rfl, good, lo, hi, printed, scan⟩)
      · exact .inr (.inr (.inl ⟨text, rfl, bad⟩))
    · next e =>
      obtain rfl : type = 0x03#8 := BitVec.eq_of_toNat_eq e
      obtain ⟨empty, attn⟩ := Option.ite_none_right_eq_some.mp decodes
      exact .inr (.inr (.inr (.inl ⟨rfl, List.isEmpty_iff.mp empty, (Option.some.inj attn).symm⟩)))
    · next e =>
      obtain rfl : type = 0x04#8 := BitVec.eq_of_toNat_eq e
      obtain ⟨empty, alive⟩ := Option.ite_none_right_eq_some.mp decodes
      exact .inr (.inr (.inr (.inr ⟨rfl, List.isEmpty_iff.mp empty, (Option.some.inj alive).symm⟩)))
    · cases decodes
  · rintro (⟨code, it, rfl, key⟩ | ⟨text, rfl, good, lo, hi, printed, scan⟩ | ⟨text, rfl, bad⟩ | ⟨rfl, rfl, rfl⟩ |
      ⟨rfl, rfl, rfl⟩)
    · exact parseKey_iff.mpr ⟨code, it, key⟩
    · exact parseScan_iff.mpr (.inl ⟨text, good, ⟨lo, hi, printed⟩, scan⟩)
    · exact parseScan_iff.mpr (.inr ⟨text, bad⟩)
    · rfl
    · rfl

/-! ## The receiver, byte by byte (R199) -/

/-- The part with the receiver of line unit `i` as `r`. -/
def State.receiving (s : State) (i : StationId) (r : Receiver) : State := s.modLine i (·.setReceiver r)

theorem State.receiving_self (s : State) (i : StationId) : s.receiving i (s.station i).line.receiver = s := by
  have same : s.stations.set i.val (s.station i) = s.stations := Vector.set_getElem_self i.isLt
  show { s with stations := s.stations.set i.val (s.station i) } = s
  rw [same]

/-- One byte moves the receiver, and judges the message that it completes. -/
theorem State.lineByte_receiving (s : State) (i : StationId) {r r' : Receiver} {b : LineByte} {m : Option LineMessage}
    (reads : r.read b = (r', m)) : State.lineByte i (s.receiving i r) b = (s.receiving i r').arrive i m := by
  have receiver : ((s.receiving i r).station i).line.receiver = r := by
    rw [State.receiving, State.modLine_station_self]
    rfl
  have moved : (s.receiving i r).receiving i r' = s.receiving i r' := by
    simp [State.receiving, State.modLine, State.setStation, State.station, LineUnit.setReceiver]
  unfold State.lineByte
  rw [receiver, reads]
  exact congrArg (fun t : State => t.arrive i m) moved

/-- A byte that completes no message is one move of the receiver. -/
theorem State.lineBytes_read (s : State) (i : StationId) {r r' : Receiver} {b : LineByte} (bytes : List LineByte)
    (reads : r.read b = (r', none)) :
    (s.receiving i r).lineBytes i (b :: bytes) = (s.receiving i r').lineBytes i bytes :=
  congrArg (fun t : State => t.lineBytes i bytes) (s.lineByte_receiving i reads)

theorem State.lineBytes_append (s : State) (i : StationId) (a b : List LineByte) :
    s.lineBytes i (a ++ b) = (s.lineBytes i a).lineBytes i b := List.foldl_append

theorem State.receiving_waiting {s : State} {i : StationId} (waiting : (s.station i).line.receiver = .waiting) :
    s.receiving i .waiting = s := waiting ▸ s.receiving_self i

/-- A waiting receiver discards every byte that is no start byte. -/
theorem State.lineBytes_noise {s : State} {i : StationId} {noise : List LineByte}
    (waiting : (s.station i).line.receiver = .waiting) (quiet : ∀ b ∈ noise, b.value ≠ 0x1E#8) :
    s.lineBytes i noise = s := by
  induction noise with
  | nil => rfl
  | cons b noise ih =>
    have reads : Receiver.waiting.read b = (.waiting, none) := by
      rw [Receiver.read, if_neg (quiet b List.mem_cons_self)]
    have byte := s.lineBytes_read i noise reads
    rw [State.receiving_waiting waiting] at byte
    exact byte.trans (ih fun c mem => quiet c (List.mem_cons_of_mem b mem))

/-- The body: bytes that the stated length still leaves room for are taken, with their marks. -/
theorem State.lineBytes_body (s : State) (i : StationId) (p f : Bool) (type length : Byte) (taken : List Byte)
    (body : List LineByte) (room : taken.length + body.length ≤ length.toNat) :
    (s.receiving i (.reading p f (type :: length :: taken))).lineBytes i body =
      s.receiving i (.reading (p || body.any LineByte.parity) (f || body.any LineByte.framing)
        (type :: length :: (taken ++ body.map LineByte.value))) := by
  induction body generalizing p f taken with
  | nil => simp [State.lineBytes]
  | cons b body ih =>
    rw [List.length_cons] at room
    have reads : (Receiver.reading p f (type :: length :: taken)).read b =
        (.reading (p || b.parity) (f || b.framing) (type :: length :: (taken ++ [b.value])), none) :=
      if_pos (show taken.length < length.toNat by omega)
    rw [s.lineBytes_read i body reads, ih _ _ _ (by rw [List.length_append, List.length_singleton]; omega)]
    simp only [List.any_cons, List.map_cons, Bool.or_assoc, List.append_assoc, List.singleton_append]

/-- The message that the bytes from a start byte to the byte in the place of the end byte are (R199). -/
def messageOf (start type length fin : LineByte) (body : List LineByte) : LineMessage where
  type := type.value
  body := body.map LineByte.value
  endByte := fin.value
  parityMark := (start :: type :: length :: (body ++ [fin])).any LineByte.parity
  framingMark := (start :: type :: length :: (body ++ [fin])).any LineByte.framing

/-- The bytes of one message, from its start byte on, have it judged, and the receiver waits again. -/
theorem State.lineBytes_message {s : State} {i : StationId} (waiting : (s.station i).line.receiver = .waiting)
    {start type length fin : LineByte} {body : List LineByte} (starts : start.value = 0x1E#8)
    (stated : body.length = length.value.toNat) :
    s.lineBytes i (start :: type :: length :: (body ++ [fin])) =
      s.receive i (messageOf start type length fin body) := by
  let p := start.parity || type.parity || length.parity
  let f := start.framing || type.framing || length.framing
  let values := body.map LineByte.value
  have opens : Receiver.waiting.read start = (.reading start.parity start.framing [], none) := by
    rw [Receiver.read, if_pos starts]
  have completes (p f : Bool) : (Receiver.reading p f (type.value :: length.value :: values)).read fin =
      (.waiting, some ⟨type.value, values, fin.value, p || fin.parity, f || fin.framing⟩) :=
    if_neg (by rw [List.length_map, stated]; exact Nat.lt_irrefl _)
  have same := State.receiving_waiting waiting
  calc s.lineBytes i (start :: type :: length :: (body ++ [fin]))
      = (s.receiving i .waiting).lineBytes i (start :: type :: length :: (body ++ [fin])) := by rw [same]
    _ = (s.receiving i (.reading p f [type.value, length.value])).lineBytes i (body ++ [fin]) :=
        (s.lineBytes_read i _ opens).trans ((s.lineBytes_read i _ rfl).trans (s.lineBytes_read i _ rfl))
    _ = State.lineByte i (s.receiving i (.reading (p || body.any LineByte.parity)
          (f || body.any LineByte.framing) (type.value :: length.value :: values))) fin := by
        rw [State.lineBytes_append, s.lineBytes_body i p f _ _ [] body (by rw [List.length_nil, Nat.zero_add, stated])]
        rfl
    _ = s.receive i (messageOf start type length fin body) := by
        rw [s.lineByte_receiving i (completes _ _), same]
        simp only [State.arrive, messageOf, List.any_cons, List.any_append, List.any_nil, Bool.or_false, Bool.or_assoc,
          p, f, values]

/-! ## Bytes in any number of commands (log 16) -/

/-- The end of a command: SRQ at its level, and nothing else changed (R189). -/
def State.driven (s : State) : State := { s with events := s.events.drive }

/-- The SRQ output decides nothing about the flags that are raised. -/
theorem EventUnit.raiseStations_drive (ks : List StationEvent) (i : StationId) {e e' : EventUnit}
    (same : e.drive = e'.drive) :
    (ks.foldl (fun e k => e.raiseStation i k) e).drive = (ks.foldl (fun e k => e.raiseStation i k) e').drive := by
  induction ks generalizing e e' with
  | nil => exact same
  | cons k ks ih =>
    have raised (e : EventUnit) : (e.raiseStation i k).drive = (e.drive.raiseStation i k).drive := rfl
    exact ih ((raised e).trans ((congrArg (fun d => (EventUnit.raiseStation d i k).drive) same).trans (raised e').symm))

theorem State.event_driven (s : State) (i : StationId) (f : Act → Act) :
    (s.driven.event i f).driven = (s.event i f).driven :=
  congrArg (fun e => { s.event i f with events := e })
    (EventUnit.raiseStations_drive (f (Act.start (s.station i))).raised i (EventUnit.drive_drive s.events))

theorem State.receive_driven (s : State) (i : StationId) (m : LineMessage) :
    (s.driven.receive i m).driven = (s.receive i m).driven := by
  unfold State.receive
  cases judge m with
  | parity => rfl
  | framing => rfl
  | accepted u => exact s.event_driven i _

theorem State.lineByte_driven (s : State) (i : StationId) (b : LineByte) :
    (State.lineByte i s.driven b).driven = (State.lineByte i s b).driven := by
  have arrives (t : State) (m : Option LineMessage) : (t.driven.arrive i m).driven = (t.arrive i m).driven := by
    cases m with
    | none => rfl
    | some m => exact t.receive_driven i m
  let r := (s.station i).line.receiver.read b
  exact arrives (s.receiving i r.1) r.2

theorem State.lineBytes_driven (s : State) (i : StationId) (bytes : List LineByte) :
    (s.driven.lineBytes i bytes).driven = (s.lineBytes i bytes).driven := by
  induction bytes generalizing s with
  | nil => rfl
  | cons b bytes ih =>
    calc ((State.lineByte i s.driven b).lineBytes i bytes).driven
        = ((State.lineByte i s.driven b).driven.lineBytes i bytes).driven := (ih _).symm
      _ = ((State.lineByte i s b).driven.lineBytes i bytes).driven := by rw [s.lineByte_driven]
      _ = ((State.lineByte i s b).lineBytes i bytes).driven := ih _

/-! ## What becomes of a message (R156) -/

theorem judge_parity {m : LineMessage} (parity : m.parityMark = true) : judge m = .parity := by
  rw [judge, if_pos parity]

theorem judge_framing {m : LineMessage} (parity : m.parityMark = false)
    (framing : m.framingMark = true ∨ m.endByte ≠ 0x1F#8 ∨ decodeUpstream m.type m.body = none) :
    judge m = .framing := by
  rw [judge, if_neg (by rw [parity]; decide)]
  split
  · rfl
  · next clean =>
    simp only [Bool.or_eq_true, bne_iff_ne, not_or] at clean
    obtain ⟨unmarked, ended⟩ := clean
    rw [(framing.resolve_left unmarked).resolve_left ended]

theorem messageOf_clean {start type length fin : LineByte} {body : List LineByte}
    (parity : (messageOf start type length fin body).parityMark = false)
    (framing : (messageOf start type length fin body).framingMark = false) (ended : fin.value = 0x1F#8) :
    messageOf start type length fin body = cleanMessage type.value (body.map LineByte.value) := by
  show (⟨_, _, _, (messageOf start type length fin body).parityMark,
    (messageOf start type length fin body).framingMark⟩ : LineMessage) = _
  rw [parity, framing, ended]
  rfl

/-- Settles O44: the bytes of a message have it judged (`State.lineBytes_message`), an undamaged one as its row has it
(`messageOf_clean`); the SRQ output between commands decides nothing (`State.lineBytes_driven`). -/
theorem damagedMessagesAreCounted : Obligations.DamagedMessagesAreCounted := by
  refine ⟨fun i s noise start type length fin body waiting quiet starts stated => ?_, fun i s noise waiting quiet => ?_,
    fun i s a b => ⟨(s.lineBytes i a).driven, rfl, ?_⟩, decodeUpstream_iff⟩
  · dsimp only
    have run : exec (.damagedMessage i (noise ++ start :: type :: length :: (body ++ [fin]))) s =
        (s.receive i (messageOf start type length fin body)).done := by
      show (State.lineBytes s i _).done = _
      rw [State.lineBytes_append, State.lineBytes_noise waiting quiet, State.lineBytes_message waiting starts stated]
    have marked {mark : LineByte → Bool} {bs : List LineByte} : ¬(∃ b ∈ bs, mark b = true) → bs.any mark = false :=
      fun none => Bool.eq_false_iff.mpr fun some => none (List.any_eq_true.mp some)
    rw [run]
    refine ⟨fun parity => ?_, fun parity framing => ?_, fun parity framing ended => ?_⟩
    · have judged := judge_parity (m := messageOf start type length fin body) (List.any_eq_true.mpr parity)
      simp only [State.receive, judged]
      exact ⟨_, rfl, ⟨fun _ ne => s.modLine_station_ne _ ne, rfl, rfl, rfl⟩, rfl, s.modLine_station_self i _⟩
    · have judged := judge_framing (m := messageOf start type length fin body) (marked parity)
        (framing.imp_left List.any_eq_true.mpr)
      simp only [State.receive, judged]
      exact ⟨_, rfl, ⟨fun _ ne => s.modLine_station_ne _ ne, rfl, rfl, rfl⟩, rfl, s.modLine_station_self i _⟩
    · rw [messageOf_clean (marked parity) (marked framing) ended]
      refine ⟨fun code it typed values _ => ?_, fun good text typed values _ => ?_, fun typed values => ?_,
        fun typed values => ?_⟩
      all_goals
        rw [typed, values]
        rfl
  · show (s.lineBytes i noise).done = _
    rw [State.lineBytes_noise waiting quiet]
    rfl
  · show Host.Outcome.next (s.lineBytes i (a ++ b)).driven = .next ((s.lineBytes i a).driven.lineBytes i b).driven
    rw [State.lineBytes_append, State.lineBytes_driven]

end Sys2Proof.Machine
end

section
/-! The transmit side of the host line (R172, R175, R177, R178, R184): the frames in their order, the answers they owe,
and the end of a frame's transmission. -/

namespace Sys2Proof.Machine

/-! ## Frames queued and started (R175) -/

theorem HostLine.startTx_busy {h : HostLine} {f : TxFrame} (busy : h.inTx = some f) : h.startTx = h := by
  simp only [HostLine.startTx, busy]

theorem HostLine.startTx_idle {h : HostLine} (idle : h.inTx = none) :
    h.startTx = { h with inTx := h.txQueue.head?, txQueue := h.txQueue.tail } := by
  obtain ⟨_, _, queue, _⟩ := h
  cases idle
  cases queue <;> rfl

/-- Starting the head of the queue keeps the frames and their order. -/
@[simp] theorem HostLine.startTx_frames (h : HostLine) : h.startTx.frames = h.frames := by
  cases busy : h.inTx with
  | some f => rw [HostLine.startTx_busy busy]
  | none =>
    rw [HostLine.startTx_idle busy]
    cases queue : h.txQueue <;> simp [HostLine.frames, busy, queue]

@[simp] theorem HostLine.startTx_outstanding (h : HostLine) : h.startTx.outstanding = h.outstanding := by
  unfold HostLine.startTx
  split <;> rfl

@[simp] theorem HostLine.startTx_polling (h : HostLine) : h.startTx.polling = h.polling := by
  unfold HostLine.startTx
  split <;> rfl

/-- No frame waits while none is in transmission. -/
theorem HostLine.startTx_waits {h : HostLine} (idle : h.startTx.inTx = none) : h.startTx.txQueue = [] := by
  cases busy : h.inTx with
  | some f =>
    rw [HostLine.startTx_busy busy, busy] at idle
    cases idle
  | none =>
    rw [HostLine.startTx_idle busy] at idle ⊢
    rw [List.head?_eq_none_iff.mp idle]
    rfl

theorem HostLine.startTx_queue {h : HostLine} {f : TxFrame} (queued : f ∈ h.startTx.txQueue) : f ∈ h.txQueue := by
  cases busy : h.inTx with
  | some g => rwa [HostLine.startTx_busy busy] at queued
  | none =>
    rw [HostLine.startTx_idle busy] at queued
    exact List.mem_of_mem_tail queued

/-! ## The answers that are owed (R172, R177, R178) -/

/-- The frames not yet transmitted owe `outstanding` answers: only a SCAN, while SCANNING, has frames that are not the
last of their answer, at most 8, and all before its POLL-END. -/
structure AnswersOwed (outstanding : Nat) (polling : PollState) (frames : List TxFrame) : Prop where
  owed : outstanding = frames.countP fun f => f.counted && f.last
  ends : ∀ f ∈ frames, f.endsScan = true → f.last = true
  scans : frames.countP (fun f => f.counted && f.endsScan) = if polling = .scanning then 1 else 0
  few : frames.countP (fun f => f.counted && !f.last) ≤ 8
  idle : polling = .idle → frames.countP (fun f => f.counted && !f.last) = 0
  order : frames.Pairwise fun a b => a.counted = true → a.endsScan = true → b.last = true

theorem HostLine.sound_iff (h : HostLine) :
    h.Sound ↔ AnswersOwed h.outstanding h.polling h.frames ∧ h.outstanding ≤ 4 ∧
      (h.inTx = none → h.txQueue = []) ∧ ∀ f ∈ h.txQueue, f.counted = true := by
  constructor
  · rintro ⟨owed, room, started, counted, ends, scans, few, idle, order⟩
    exact ⟨⟨owed, ends, scans, few, idle, order⟩, room, started, counted⟩
  · rintro ⟨⟨owed, ends, scans, few, idle, order⟩, room, started, counted⟩
    exact ⟨owed, room, started, counted, ends, scans, few, idle, order⟩

section Owed

variable {n : Nat} {p : PollState} {fs : List TxFrame}

/-- A request answered by one frame owes one more answer (R172, R175). -/
theorem AnswersOwed.answered (h : AnswersOwed n p fs) (tag : Byte) (r : Response) :
    AnswersOwed (n + 1) p (fs ++ [answerFrame tag r]) where
  owed := by rw [List.countP_append, ← h.owed]; rfl
  ends := by
    intro f mem
    obtain before | rfl := by simpa only [List.mem_append, List.mem_singleton] using mem
    · exact h.ends f before
    · exact fun _ => rfl
  scans := by rw [List.countP_append, h.scans]; rfl
  few := by rw [List.countP_append]; exact h.few
  idle := fun polling => by rw [List.countP_append, h.idle polling]; rfl
  order := by
    refine List.pairwise_append.mpr ⟨h.order, List.pairwise_singleton _ _, fun a _ b last _ _ => ?_⟩
    rw [List.mem_singleton.mp last]
    rfl

/-- While no SCAN goes on no counted frame ends one. -/
theorem AnswersOwed.no_end (h : AnswersOwed n .idle fs) {f : TxFrame} (mem : f ∈ fs) (counted : f.counted = true) :
    f.endsScan = false := by
  have none := List.countP_eq_zero.mp h.scans f mem
  simpa [counted] using none

/-- The frames of a SCAN: one for each station of the snapshot, and its POLL-END (R178). -/
theorem mem_scanFrames {tag : Byte} {s : State} {snapshot : List StationId} {f : TxFrame} :
    f ∈ scanFrames tag s snapshot ↔
      (∃ i ∈ snapshot, ⟨tag, entryResponse i (s.station i), false, true, false⟩ = f) ∨
        f = ⟨tag, .pollEnd snapshot.length, true, true, true⟩ := by
  simp only [scanFrames, List.mem_append, List.mem_map, List.mem_singleton]

/-- A SCAN owes one answer of several frames, of which the POLL-END comes last (R177, R178). -/
theorem AnswersOwed.scanned (h : AnswersOwed n .idle fs) (tag : Byte) (s : State) {snapshot : List StationId}
    (few : snapshot.length ≤ 8) : AnswersOwed (n + 1) .scanning (fs ++ scanFrames tag s snapshot) where
  owed := by simp [scanFrames, List.countP_map, Function.comp_def, ← h.owed]
  ends := by
    intro f mem
    obtain before | new := List.mem_append.mp mem
    · exact h.ends f before
    · obtain ⟨i, -, rfl⟩ | rfl := mem_scanFrames.mp new
      · exact fun e => e
      · exact fun _ => rfl
  scans := by simp [scanFrames, List.countP_map, Function.comp_def, h.scans]
  few := by simpa [scanFrames, List.countP_map, Function.comp_def, h.idle rfl] using few
  idle := nofun
  order := by
    have apart : (snapshot.map fun i => (⟨tag, entryResponse i (s.station i), false, true, false⟩ : TxFrame)).Pairwise
        fun a b => a.counted = true → a.endsScan = true → b.last = true :=
      List.pairwise_map.mpr (List.pairwise_of_forall fun _ _ _ => nofun)
    refine List.pairwise_append.mpr ⟨h.order, List.pairwise_append.mpr ⟨apart, List.pairwise_singleton _ _, ?_⟩, ?_⟩
    · intro a _ b last _ _
      rw [List.mem_singleton.mp last]
    · intro a old b _ counted ends
      rw [h.no_end old counted] at ends
      cases ends

/-- The first frame transmitted: its answer is owed no more if it is counted and the last, and a counted POLL-END of a
SCAN has no more of it behind (R175, R177). -/
theorem AnswersOwed.finished {f : TxFrame} (h : AnswersOwed n p (f :: fs)) :
    AnswersOwed (if f.counted && f.last then n - 1 else n) (if f.counted && f.endsScan then .idle else p) fs := by
  obtain ⟨owed, ends, scans, few, idle, order⟩ := h
  obtain ⟨behind, order⟩ := List.pairwise_cons.mp order
  rw [List.countP_cons] at owed scans few idle
  refine ⟨?_, fun g mem => ends g (List.mem_cons_of_mem f mem), ?_, (Nat.le_add_right _ _).trans few, ?_, order⟩
  · cases last : f.counted && f.last with
    | true =>
      rw [last, if_pos rfl] at owed
      rw [if_pos rfl, owed, Nat.add_sub_cancel]
    | false => simpa only [last, Bool.false_eq_true, if_false, Nat.add_zero] using owed
  · cases final : f.counted && f.endsScan with
    | true =>
      rw [final, if_pos rfl] at scans
      rw [if_pos rfl, if_neg (by decide)]
      split at scans <;> omega
    | false =>
      rw [final] at scans
      simpa using scans
  · intro now
    cases final : f.counted && f.endsScan with
    | true =>
      obtain ⟨counted, last⟩ := Bool.and_eq_true_iff.mp final
      refine List.countP_eq_zero.mpr fun g mem => ?_
      simp [behind g mem counted last]
    | false =>
      rw [final] at now
      exact (Nat.add_eq_zero_iff.mp (idle now)).1

/-- Frames of requests that are no longer counted owe nothing (R184). -/
theorem AnswersOwed.uncounted (counted : ∀ f ∈ fs, f.counted = false)
    (ends : ∀ f ∈ fs, f.endsScan = true → f.last = true) : AnswersOwed 0 .idle fs where
  owed := (List.countP_eq_zero.mpr fun f mem => by simp [counted f mem]).symm
  ends := ends
  scans := List.countP_eq_zero.mpr fun f mem => by simp [counted f mem]
  few := (List.countP_eq_zero.mpr fun f mem => by simp [counted f mem]).trans_le (Nat.zero_le 8)
  idle := fun _ => List.countP_eq_zero.mpr fun f mem => by simp [counted f mem]
  order := List.pairwise_of_forall_mem_list fun f mem _ _ yes => by rw [counted f mem] at yes; cases yes

end Owed

/-! ## The invariant of the host line -/

/-- The host line is sound once the head of its queue has been started. -/
theorem HostLine.sound_startTx {h : HostLine} (owed : AnswersOwed h.outstanding h.polling h.frames)
    (room : h.outstanding ≤ 4) (counted : ∀ f ∈ h.txQueue, f.counted = true) : h.startTx.Sound := by
  rw [HostLine.sound_iff, HostLine.startTx_outstanding, HostLine.startTx_polling, HostLine.startTx_frames]
  exact ⟨owed, room, HostLine.startTx_waits, fun f queued => counted f (HostLine.startTx_queue queued)⟩

/-- The host line is sound after counted frames have joined its queue. -/
theorem HostLine.sound_send {h : HostLine} {fs : List TxFrame}
    (owed : AnswersOwed h.outstanding h.polling (h.frames ++ fs)) (room : h.outstanding ≤ 4)
    (queued : ∀ f ∈ h.txQueue, f.counted = true) (counted : ∀ f ∈ fs, f.counted = true) : (h.send fs).Sound := by
  refine HostLine.sound_startTx ?_ room ?_
  · simpa only [HostLine.frames, List.append_assoc] using owed
  · intro f mem
    exact (List.mem_append.mp mem).elim (queued f) (counted f)

theorem scanFrames_counted (tag : Byte) (s : State) (snapshot : List StationId) :
    ∀ f ∈ scanFrames tag s snapshot, f.counted = true := by
  intro f mem
  obtain ⟨i, -, rfl⟩ | rfl := mem_scanFrames.mp mem
  · rfl
  · rfl

/-- What any command does to the host line keeps it sound. -/
theorem HostMove.sound {h g : HostLine} (move : HostMove h g) (sound : h.Sound) : g.Sound := by
  obtain ⟨owed, room, started, counted⟩ := h.sound_iff.mp sound
  have answer (tag : Byte) (r : Response) : ∀ f ∈ [answerFrame tag r], f.counted = true := by simp [answerFrame]
  cases move with
  | power => exact HostLine.reset_sound
  | framed | lengthError | checkError | overrun => exact sound
  | answered fr set p tag r free => exact HostLine.sound_send (owed.answered tag r) free counted (answer tag r)
  | scanned fr set p tag u snapshot free idle few =>
    rw [idle] at owed
    exact HostLine.sound_send (owed.scanned tag u few) free counted (scanFrames_counted tag u snapshot)
  | reset fr tag =>
    have old : AnswersOwed 0 .idle (h.inTx.map fun f => { f with counted := false }).toList := by
      refine .uncounted (by simp) fun f mem => ?_
      obtain ⟨g, busy, rfl⟩ := by simpa using mem
      exact owed.ends g (by simp [HostLine.frames, busy])
    refine HostLine.sound_send ?_ (Nat.one_le_ofNat : 1 ≤ 4) (fun f mem => absurd mem List.not_mem_nil) (answer _ _)
    have frames : ({ h with framer := fr, outstanding := h.outstanding + 1 } : HostLine).partReset.frames =
        (h.inTx.map fun f => { f with counted := false }).toList := List.append_nil _
    rw [frames]
    exact old.answered tag (.accept .partReset)
  | @finished f busy =>
    have frames : h.frames = f :: h.txQueue := by simp [HostLine.frames, busy]
    rw [frames] at owed
    refine HostLine.sound_startTx owed.finished ?_ counted
    show (if f.counted && f.last then h.outstanding - 1 else h.outstanding) ≤ 4
    split <;> omega

/-- Each frame is the last of a counted answer, or another of one, or of a request that is no longer counted. -/
theorem length_eq_countP (fs : List TxFrame) :
    fs.length = fs.countP (fun f => f.counted && f.last) + fs.countP (fun f => f.counted && !f.last) +
      fs.countP fun f => !f.counted := by
  have counted := List.countP_eq_countP_filter_add fs TxFrame.counted TxFrame.last
  rw [List.countP_filter, List.countP_filter] at counted
  rw [List.length_eq_countP_add_countP TxFrame.counted, counted]
  simp only [Bool.not_eq_true, Bool.decide_eq_false]

/-- At most 4 last frames, 8 others of a SCAN, and a frame in transmission that is no longer counted (R178, R184). -/
theorem HostLine.Sound.frames_length {h : HostLine} (sound : h.Sound) : h.frames.length ≤ 13 := by
  obtain ⟨owed, room, -, counted⟩ := h.sound_iff.mp sound
  have old : h.frames.countP (fun f => !f.counted) ≤ 1 := by
    have queue : h.txQueue.countP (fun f => !f.counted) = 0 := by simpa [List.countP_eq_zero] using counted
    have inTx : h.inTx.toList.length ≤ 1 := by cases h.inTx <;> simp
    rw [HostLine.frames, List.countP_append, queue]
    exact List.countP_le_length.trans inTx
  have last := owed.owed
  have few := owed.few
  have all := length_eq_countP h.frames
  omega

/-- Settles O14: what a command may leave the host line as (`step_host`) is sound (`HostMove.sound`), and a sound host
line has few frames. -/
theorem stepKeepsTheHostLine : Obligations.StepKeepsTheHostLine :=
  ⟨fun _ _ sound h => (step_host h).sound sound, fun _ sound => sound.frames_length⟩

/-! ## The end of a transmission (R175, R177, R184) -/

/-- Settles O20: frames join the queue's end, and the end of a transmission starts the queue's head
(`HostLine.startTx_idle`). -/
theorem responsesAreTransmittedInOrder : Obligations.ResponsesAreTransmittedInOrder := by
  refine ⟨fun h fs => ⟨fun f busy => HostLine.startTx_busy busy, fun idle f rest queue => ?_⟩, fun _ _ => rfl,
    fun s f busy => ?_⟩
  · rw [HostLine.send, queue]
    exact HostLine.startTx_idle idle
  · have run : exec .responseTransmissionComplete s = (s.modHost fun h => (h.finishFrame f).startTx).done := by
      show execResponseTransmissionComplete s = _
      simp only [execResponseTransmissionComplete, busy]
    have next : (s.host.finishFrame f).startTx =
        { s.host.finishFrame f with inTx := s.host.txQueue.head?, txQueue := s.host.txQueue.tail } :=
      HostLine.startTx_idle rfl
    refine ⟨_, run.trans (State.done_eq _), ?_⟩
    rw [show (s.modHost fun h => (h.finishFrame f).startTx).host = (s.host.finishFrame f).startTx from rfl, next]
    exact ⟨rfl, rfl, rfl, rfl, rfl, rfl, rfl, rfl, rfl, rfl, rfl, fun _ => rfl, rfl, rfl⟩

end Sys2Proof.Machine
end

section
/-! The Event Unit (R180, R186 to R189): the level of SRQ after every command, the flags that are raised and cleared,
ENABLE EVENTS and CLEAR EVENTS. -/

namespace Sys2Proof.Machine

/-! ## The level of SRQ (R189) -/

theorem EventUnit.anyPending_iff (e : EventUnit) :
    e.anyPending = true ↔ e.partFlags ≠ 0#3 ∨ ∃ i : StationId, e.stationFlags[i.val] ≠ 0#8 := by
  have stations : (∃ f ∈ e.stationFlags.toList, f ≠ 0#8) ↔ ∃ i : StationId, e.stationFlags[i.val] ≠ 0#8 := by
    constructor
    · rintro ⟨f, mem, pending⟩
      obtain ⟨n, lt, rfl⟩ := Vector.mem_iff_getElem.mp (Vector.mem_toList_iff.mp mem)
      exact ⟨⟨n, lt⟩, pending⟩
    · rintro ⟨i, pending⟩
      exact ⟨_, Vector.mem_toList_iff.mpr (Vector.getElem_mem i.isLt), pending⟩
  rw [EventUnit.anyPending, Bool.or_eq_true, bne_iff_ne, List.any_eq_true]
  simp only [bne_iff_ne, stations]

theorem EventUnit.srqLevel_iff (e : EventUnit) :
    e.srqLevel = true ↔ (e.partFlags ≠ 0#3 ∨ ∃ i : StationId, e.stationFlags[i.val] ≠ 0#8) ∧ e.holdOff = none := by
  rw [EventUnit.srqLevel, Bool.and_eq_true, EventUnit.anyPending_iff, Option.isNone_iff_eq_none]

/-- SRQ is at its level exactly when driving it changes nothing. -/
theorem EventUnit.Sound.drive_eq {e : EventUnit} (sound : e.Sound) : e.drive = e := by
  unfold EventUnit.drive
  rw [← show e.srq = e.srqLevel from sound]

theorem EventUnit.drive_sound (e : EventUnit) : e.drive.Sound := rfl

/-! ## Every command leaves SRQ at its level -/

/-- A command ends by driving SRQ, or has left the state as it was. -/
def Drives (s : State) (o : Host.Outcome State Fault Refusal) : Prop := o = .next s ∨ ∃ t, o = State.done t

theorem State.drives_done {s : State} (t : State) : Drives s t.done := .inr ⟨t, rfl⟩

/-- The row of an event that may not occur (log 4). -/
theorem State.drives_ite {s t : State} {p : Prop} [Decidable p] : Drives s (if p then t.done else .next s) := by
  split
  · exact State.drives_done t
  · exact .inl rfl

theorem State.drives_take (s : State) (i : StationId) (want : Item → Bool) (act : Item → Act → FormInstance → Act) :
    Drives s (s.take i want act) := by
  obtain ⟨it, x, -, -, taken⟩ | kept := s.take_cases i want act
  · exact .inr ⟨_, taken⟩
  · exact .inl kept

theorem exec_drives {c : Instr} (s : State) (running : c ≠ .powerOn) : Drives s (exec c s) := by
  cases c
  case powerOn => exact absurd rfl running
  case responseTransmissionComplete =>
    show Drives s (execResponseTransmissionComplete s)
    unfold execResponseTransmissionComplete
    split
    · exact State.drives_done _
    · exact .inl rfl
  case holdOffExpiry | silenceTimerExpiry | transmissionComplete | responseTimerExpiry => exact State.drives_ite
  case char | functionKey | scanItem | insert | delete | backspace | eraseField | eraseInput | tab | backtab | up | down
    | left | right | home | newline | pageNext | pagePrior | reset | enter | cancel | clear =>
    exact State.drives_take ..
  all_goals exact State.drives_done _

theorem exec_events_sound {c : Instr} {s t : State} (sound : s.events.Sound) (run : exec c s = .next t) :
    t.events.Sound := by
  by_cases power : c = .powerOn
  · subst power
    cases run
    exact EventUnit.reset_sound
  · obtain kept | ⟨u, done⟩ := exec_drives s power
    · rw [kept] at run
      cases run
      exact sound
    · rw [done] at run
      cases run
      exact u.events.drive_sound

/-- Settles O15: every command but POWER_ON drives SRQ or leaves the state (`exec_drives`), and POWER_ON gives the level
itself. -/
theorem stepKeepsSrq : Obligations.StepKeepsSrq := by
  refine ⟨fun s t sound run => ?_, fun e => ⟨?_, rfl, e.srqLevel_iff⟩⟩
  · obtain ⟨-, rfl⟩ | ⟨c, rest, -, run⟩ := step_cases run
    · exact sound
    · exact exec_events_sound (s := { s with pending := rest }) sound run
  · exact Bool.eq_iff_iff.trans (iff_congr Iff.rfl e.srqLevel_iff)

/-! ## Flags raised and cleared (R180, R186, R194) -/

/-- The enable of a per-station kind is that of its kind number. -/
theorem EventUnit.stationEnables_getLsbD (e : EventUnit) (n : Fin 8) :
    e.stationEnables.getLsbD n.val = e.enables.getLsbD n.val := by
  simp [EventUnit.stationEnables]

/-- The enable of a part kind is that of its kind number, 8 more. -/
theorem EventUnit.partEnables_getLsbD (e : EventUnit) (n : Fin 3) :
    e.partEnables.getLsbD n.val = e.enables.getLsbD (8 + n.val) := by
  simp [EventUnit.partEnables]

theorem StationEvent.index_eq_iff (k : StationEvent) (n : Fin 8) :
    k.index = n.val ↔
      [StationEvent.entryReady, .attention, .responseTimeout, .entryOverrun, .keyOverrun, .scannerSuspended, .lineDown,
        .lineUp][n.val]? = some k := by
  revert n
  cases k <;> decide

theorem PartEvent.index_eq_iff (k : PartEvent) (n : Fin 3) :
    k.index = n.val ↔ [PartEvent.powerOn, .hostOverrun, .frameError][n.val]? = some k := by
  revert n
  cases k <;> decide

/-- A flag captured: pending before, or of the kind raised when that kind is enabled. -/
theorem captured_iff {w : Nat} (flags enables : BitVec w) (k : Nat) (n : Fin w) :
    (flags ||| (BitVec.twoPow w k &&& enables)).getLsbD n.val = true ↔
      flags.getLsbD n.val = true ∨ enables.getLsbD n.val = true ∧ k = n.val := by
  have bit : (BitVec.twoPow w k).getLsbD n.val = true ↔ k = n.val := by
    rw [BitVec.getLsbD_twoPow, Bool.and_eq_true, decide_eq_true_eq, decide_eq_true_eq]
    exact and_iff_right_of_imp fun e => e ▸ n.isLt
  rw [BitVec.getLsbD_or, BitVec.getLsbD_and, Bool.or_eq_true, Bool.and_eq_true, bit, and_comm (a := k = n.val)]

theorem EventUnit.raiseStation_flags (e : EventUnit) (i j : StationId) (k : StationEvent) (n : Fin 8) :
    (e.raiseStation i k).stationFlags[j.val].getLsbD n.val = true ↔
      e.stationFlags[j.val].getLsbD n.val = true ∨
        (j = i ∧ e.enables.getLsbD n.val = true ∧ k.index = n.val) := by
  by_cases here : j = i
  · subst here
    have flags : (e.raiseStation j k).stationFlags[j.val] = _ := Vector.getElem_set_self _
    rw [flags, captured_iff, EventUnit.stationEnables_getLsbD]
    simp only [true_and]
  · have kept : (e.raiseStation i k).stationFlags[j.val] = e.stationFlags[j.val] :=
      EventUnit.raiseStations_flags_ne [k] e here
    simp only [kept, here, false_and, or_false]

theorem EventUnit.raisePart_flags (e : EventUnit) (k : PartEvent) (n : Fin 3) :
    (e.raisePart k).partFlags.getLsbD n.val = true ↔
      e.partFlags.getLsbD n.val = true ∨ (e.enables.getLsbD (8 + n.val) = true ∧ k.index = n.val) := by
  rw [← EventUnit.partEnables_getLsbD]
  exact captured_iff e.partFlags e.partEnables k.index n

theorem EventUnit.clearStation_flags (e : EventUnit) (i j : StationId) (mask : BitVec 8) :
    (e.clearStation i mask).stationFlags[j.val] =
      if j = i then e.stationFlags[j.val] &&& ~~~mask else e.stationFlags[j.val] := by
  by_cases here : j = i
  · subst here
    rw [if_pos rfl]
    exact Vector.getElem_set_self _
  · rw [if_neg here]
    exact Vector.getElem_set_ne i.isLt j.isLt fun same => here (Fin.ext same.symm)

/-! ## ENABLE EVENTS (R187) -/

/-- POWER-ON stays enabled, and every other enable is as it is carried. -/
theorem EventUnit.enable_enables (e : EventUnit) (enables : BitVec 11) {n : Nat} (h : n < 11) :
    (e.enable enables).enables.getLsbD n = (enables.getLsbD n || decide (n = 8)) := by
  simp [EventUnit.enable, h]

theorem EventUnit.enable_partFlags (e : EventUnit) (enables : BitVec 11) (n : Fin 3) :
    (e.enable enables).partFlags.getLsbD n.val =
      (e.partFlags.getLsbD n.val && (enables.getLsbD (8 + n.val) || decide (n = 0))) := by
  have flags : (e.enable enables).partFlags = e.partFlags &&& (e.enable enables).partEnables := rfl
  rw [flags, BitVec.getLsbD_and, EventUnit.partEnables_getLsbD, EventUnit.enable_enables _ _ (by omega)]
  simp only [Fin.ext_iff, Nat.add_eq_left, Fin.val_zero]

theorem EventUnit.enable_stationFlags (e : EventUnit) (enables : BitVec 11) (i : StationId) (k : Fin 8) :
    (e.enable enables).stationFlags[i.val].getLsbD k.val =
      (e.stationFlags[i.val].getLsbD k.val && enables.getLsbD k.val) := by
  have flags : (e.enable enables).stationFlags[i.val] = e.stationFlags[i.val] &&& (e.enable enables).stationEnables :=
    Vector.getElem_map _ _
  have other : k.val ≠ 8 := by omega
  rw [flags, BitVec.getLsbD_and, EventUnit.stationEnables_getLsbD, EventUnit.enable_enables _ _ (by omega)]
  simp [other]

theorem exec_enableEvents {s : State} (tag : Byte) (enables : BitVec 11) (room : s.host.outstanding < 4) :
    exec (.enableEvents tag enables) s =
      (({ s.countIn with events := s.events.enable enables } : State).respond tag
        (.accept (.enableEvents (s.events.enable enables).enables))).done :=
  congrArg State.done (State.request_served tag room (r := .enableEvents enables) rfl
    (by simp [requestBytes, halfBytes]) rfl)

/-- Settles O38: ENABLE EVENTS masks the flags by the enables it leaves (`EventUnit.enable_stationFlags`,
`EventUnit.enable_partFlags`), and raising and clearing are read flag by flag. -/
theorem enableEventsClearsDisabledKinds : Obligations.EnableEventsClearsDisabledKinds := by
  refine ⟨fun tag enables s room => ?_, fun e i k => ⟨rfl, rfl, rfl, rfl, fun j n => ?_⟩,
    fun e i mask => ⟨rfl, rfl, rfl, rfl, fun j => e.clearStation_flags i j mask⟩,
    fun e k => ⟨rfl, rfl, rfl, rfl, fun n => ?_⟩⟩
  · have part := s.events.enable_partFlags enables
    refine ⟨_, exec_enableEvents tag enables room, rfl, rfl, s.events.enable_stationFlags enables, ?_, ?_, ?_, rfl, rfl,
      fun _ => rfl, rfl, rfl⟩
    · exact (part 0).trans (by simp)
    · exact (part 1).trans (by simp)
    · exact (part 2).trans (by simp)
  · rw [← StationEvent.index_eq_iff]
    exact e.raiseStation_flags i j k n
  · rw [← PartEvent.index_eq_iff]
    exact e.raisePart_flags k n

/-! ## CLEAR EVENTS and the hold-off (R188, R189) -/

theorem exec_clearEvents {s : State} (tag : Byte) (part : BitVec 3) (flags : Vector (BitVec 8) 8)
    (room : s.host.outstanding < 4) :
    exec (.clearEvents tag part flags) s =
      (({ s.countIn with events := s.events.clear part flags } : State).respond tag
        (.accept (.clearEvents (s.events.clear part flags).partFlags (s.events.clear part flags).stationFlags))).done :=
  congrArg State.done (State.request_served tag room (r := .clearEvents part flags) rfl
    (by simp [requestBytes, flagLayout]) rfl)

/-- The hold-off keeps SRQ negated (R189). -/
theorem EventUnit.srqLevel_heldOff {e : EventUnit} (running : e.holdOff.isSome = true) : e.srqLevel = false := by
  rw [EventUnit.srqLevel, Option.isNone_eq_false_iff.mpr running, Bool.and_false]

/-- Settles O39: CLEAR EVENTS leaves the hold-off running, which negates SRQ, and its expiry gives SRQ the level of the
flags that are still pending. -/
theorem clearEventsHoldsSrqOff : Obligations.ClearEventsHoldsSrqOff := by
  constructor
  · intro tag part flags s room
    exact ⟨_, exec_clearEvents tag part flags room, rfl, fun i => Vector.getElem_zipWith _, rfl, rfl,
      EventUnit.srqLevel_heldOff rfl, rfl, fun _ => rfl, rfl, rfl⟩
  · intro s running
    have expires : exec .holdOffExpiry s = ({ s with events := { s.events with holdOff := none } } : State).done :=
      if_pos running
    refine ⟨_, expires, rfl, ?_, rfl, rfl, rfl, rfl, fun _ => rfl, rfl, rfl⟩
    exact (EventUnit.srqLevel_iff _).trans (and_iff_left rfl)

end Sys2Proof.Machine
end

section
/-! The bytes of the host line (R170 to R173): what each byte does in each state of the framer, that the bytes of a
frame do what its request does, and what becomes of frames that are too long, fail their check, or do not decode. -/

namespace Sys2Proof.Machine

/-! ## Sums of bytes and numbers of two bytes (R171, R190) -/

theorem halfOf_toNat (hi lo : Byte) : (halfOf hi lo).toNat = 256 * hi.toNat + lo.toNat := by
  rw [halfOf, BitVec.toNat_append, ← Nat.shiftLeft_add_eq_or_of_lt lo.isLt, Nat.shiftLeft_eq, Nat.mul_comm]

theorem byteSum_toNat (bytes : List Byte) : (byteSum bytes).toNat = (bytes.map BitVec.toNat).sum % 65536 := by
  induction bytes with
  | nil => rfl
  | cons b bytes ih =>
    rw [byteSum, BitVec.toNat_add, BitVec.toNat_setWidth, ih, ← Nat.add_mod]
    rfl

theorem byteSum_append (a b : List Byte) : byteSum (a ++ b) = byteSum a + byteSum b := by
  induction a with
  | nil => exact (BitVec.zero_add _).symm
  | cons x a ih => rw [List.cons_append, byteSum, byteSum, ih, BitVec.add_assoc]

/-- The check of a frame makes its sum 0 (R171). -/
theorem byteSum_add_checkOf (bytes : List Byte) : byteSum bytes + checkOf bytes = 0#16 :=
  BitVec.add_right_neg _

/-! ## The framer, byte by byte (R170) -/

/-- The part with its receive framer set. -/
def State.framed (s : State) (f : Framer) : State := s.modHost fun h => { h with framer := f }

theorem State.framed_framer (s : State) (f : Framer) : (s.framed f).host.framer = f := rfl

theorem State.framed_self {s : State} {f : Framer} (framer : s.host.framer = f) : s.framed f = s := by
  subst framer
  rfl

section Bytes

variable {s : State} {b : Byte} {sum : Half} {kind tag hi : Byte}

theorem State.hostByte_hunt (framer : s.host.framer = .hunt) :
    s.hostByte b = s.framed (if b = 0x5A#8 then .header 0#16 [] else .hunt) := by
  simp only [State.hostByte, framer]
  split
  · rfl
  · exact (State.framed_self framer).symm

theorem State.hostByte_header {recorded : List Byte} (framer : s.host.framer = .header sum recorded)
    (short : recorded.length < 3) : s.hostByte b = s.framed (.header (sum + b.setWidth 16) (recorded ++ [b])) := by
  simp only [State.hostByte, framer]
  match recorded, short with
  | [], _ => rfl
  | [_], _ => rfl
  | [_, _], _ => rfl

theorem State.hostByte_length (framer : s.host.framer = .header sum [kind, tag, hi])
    (fits : 256 * hi.toNat + b.toNat ≤ 1024) :
    s.hostByte b = s.framed (framerAfterLength (sum + b.setWidth 16) kind tag (256 * hi.toNat + b.toNat)) := by
  simp only [State.hostByte, framer, State.lengthByte, halfOf_toNat]
  exact if_pos fits

theorem State.hostByte_tooLong (framer : s.host.framer = .header sum [kind, tag, hi])
    (long : 1024 < 256 * hi.toNat + b.toNat) : s.hostByte b = (s.framed .hunt).lengthError := by
  simp only [State.hostByte, framer, State.lengthByte, halfOf_toNat]
  exact if_neg (Nat.not_le.mpr long)

theorem State.hostByte_payload {n : Nat} {recorded : List Byte}
    (framer : s.host.framer = .payload sum kind tag n recorded) :
    s.hostByte b = s.framed (if recorded.length + 1 < n then .payload (sum + b.setWidth 16) kind tag n (recorded ++ [b])
      else .check (sum + b.setWidth 16) kind tag (recorded ++ [b]) none) := by
  simp only [State.hostByte, framer]
  split <;> rfl

theorem State.hostByte_check {payload : List Byte} (framer : s.host.framer = .check sum kind tag payload none) :
    s.hostByte b = s.framed (.check sum kind tag payload (some b)) := by
  simp only [State.hostByte, framer]
  rfl

theorem State.hostByte_arrives {payload : List Byte}
    (framer : s.host.framer = .check sum kind tag payload (some hi)) :
    s.hostByte b =
      if sum + halfOf hi b = 0#16 then (s.framed .hunt).accept tag kind payload (decodeRequest kind payload)
      else (s.framed .hunt).checkError := by
  simp only [State.hostByte, framer]
  rfl

end Bytes

/-- A byte that sets the framer moves nothing else. -/
theorem State.framedTo_of_hostByte {s : State} {b : Byte} {f : Framer} (moves : s.hostByte b = s.framed f) :
    ∃ t, exec (.hostLineByteReceived b) s = .next t ∧ s.FramedTo t f :=
  ⟨_, congrArg State.done moves, rfl, rfl, rfl, rfl, fun _ => rfl⟩

/-- Settles O18: in each state of the framer a byte within a frame sets the framer and does no more. -/
theorem hostBytesMoveTheFramer : Obligations.HostBytesMoveTheFramer := fun _ _ =>
  ⟨fun framer => State.framedTo_of_hostByte (State.hostByte_hunt framer),
    fun _ _ framer short => State.framedTo_of_hostByte (State.hostByte_header framer short),
    fun _ _ _ _ framer fits => State.framedTo_of_hostByte (State.hostByte_length framer fits),
    fun _ _ _ _ _ framer => State.framedTo_of_hostByte (State.hostByte_payload framer),
    fun _ _ _ _ framer => State.framedTo_of_hostByte (State.hostByte_check framer)⟩

/-! ## The bytes of a frame (R170, R171) -/

/-- With SRQ at its level a byte that sets the framer leads from one state of the framer to the next. -/
theorem receiveBytes_framed {s : State} {f g : Framer} {b : Byte} (sound : s.events.Sound)
    (moves : (s.framed f).hostByte b = (s.framed f).framed g) (bytes : List Byte) :
    receiveBytes (b :: bytes) (s.framed f) = receiveBytes bytes (s.framed g) := by
  have run : exec (.hostLineByteReceived b) (s.framed f) = .next (s.framed g) := by
    have driven : ({ s.framed g with events := (s.framed g).events.drive } : State) = s.framed g :=
      congrArg (fun e => ({ s.framed g with events := e } : State)) sound.drive_eq
    exact (congrArg State.done moves).trans (congrArg Host.Outcome.next driven)
  rw [receiveBytes, run]

/-- The kind, the tag and the first length byte. -/
theorem receiveBytes_header {s : State} (sound : s.events.Sound) (kind tag hi : Byte) (bytes : List Byte) :
    receiveBytes (kind :: tag :: hi :: bytes) (s.framed (.header 0#16 [])) =
      receiveBytes bytes
        (s.framed (.header (0#16 + kind.setWidth 16 + tag.setWidth 16 + hi.setWidth 16) [kind, tag, hi])) := by
  have recorded (sum : Half) (before : List Byte) (short : before.length < 3) (b : Byte) (bytes : List Byte) :
      receiveBytes (b :: bytes) (s.framed (.header sum before)) =
        receiveBytes bytes (s.framed (.header (sum + b.setWidth 16) (before ++ [b]))) :=
    receiveBytes_framed sound (State.hostByte_header (s.framed_framer _) short) bytes
  exact (recorded _ [] (Nat.zero_lt_succ 2) kind _).trans <|
    (recorded _ [kind] (Nat.one_lt_succ_succ 1) tag _).trans (recorded _ [kind, tag] (Nat.lt_succ_self 2) hi bytes)

/-- The bytes of a payload that is not empty lead to the check. -/
theorem receiveBytes_payload {s : State} (sound : s.events.Sound) (kind tag : Byte) (bytes : List Byte) (n : Nat)
    (payload recorded : List Byte) (sum : Half) (bytesLeft : payload ≠ [])
    (length : recorded.length + payload.length = n) :
    receiveBytes (payload ++ bytes) (s.framed (.payload sum kind tag n recorded)) =
      receiveBytes bytes (s.framed (.check (sum + byteSum payload) kind tag (recorded ++ payload) none)) := by
  induction payload generalizing recorded sum with
  | nil => exact absurd rfl bytesLeft
  | cons b payload ih =>
    rw [List.cons_append, receiveBytes_framed sound (State.hostByte_payload (s.framed_framer _))]
    rw [List.length_cons] at length
    cases payload with
    | nil =>
      rw [if_neg (by simp only [List.length_nil] at length; omega)]
      simp only [byteSum, BitVec.add_zero]
      rfl
    | cons c payload =>
      rw [if_pos (by simp only [List.length_cons] at length; omega),
        ih (recorded ++ [b]) _ (List.cons_ne_nil c payload)
          (by rw [List.length_append, List.length_singleton]; omega)]
      simp only [List.append_assoc, List.singleton_append, BitVec.add_assoc, byteSum]

/-- The bytes of any payload lead from its length to the check. -/
theorem receiveBytes_afterLength {s : State} (sound : s.events.Sound) (kind tag : Byte) (bytes payload : List Byte)
    (sum : Half) :
    receiveBytes (payload ++ bytes) (s.framed (framerAfterLength sum kind tag payload.length)) =
      receiveBytes bytes (s.framed (.check (sum + byteSum payload) kind tag payload none)) := by
  cases payload with
  | nil =>
    rw [byteSum, BitVec.add_zero]
    rfl
  | cons b payload =>
    exact receiveBytes_payload sound kind tag bytes _ _ [] sum (List.cons_ne_nil b payload) (Nat.zero_add _)

/-- The two bytes of a 16-bit number. -/
theorem exists_halfBytes (x : Half) : ∃ hi lo : Byte, halfBytes x = [hi, lo] ∧ halfOf hi lo = x :=
  ⟨_, _, rfl, halfOf_halfBytes x⟩

/-- The bytes of a whole frame, received by a framer in HUNT, are the frame accepted (R170, R171). -/
theorem receiveBytes_frameBytes {s : State} (sound : s.events.Sound) (hunt : s.host.framer = .hunt) (kind tag : Byte)
    {payload : List Byte} (fits : payload.length ≤ 1024) :
    receiveBytes (frameBytes kind tag payload) s =
      (s.accept tag kind payload (decodeRequest kind payload)).done := by
  obtain ⟨hi, lo, lengthBytes, length⟩ := exists_halfBytes (BitVec.ofNat 16 payload.length)
  obtain ⟨checkHi, checkLo, checkBytes, check⟩ := exists_halfBytes (checkOf (frameBody kind tag payload))
  have value : 256 * hi.toNat + lo.toNat = payload.length := by
    rw [← halfOf_toNat, length, BitVec.toNat_ofNat]
    omega
  have body : frameBody kind tag payload = [kind, tag, hi, lo] ++ payload := by
    simp only [frameBody, half, lengthBytes, List.cons_append, List.nil_append]
  have bytes : frameBytes kind tag payload =
      0x5A#8 :: kind :: tag :: hi :: lo :: (payload ++ [checkHi, checkLo]) := by
    rw [frameBytes, checkBytes, body, List.append_assoc]
    rfl
  have sum : 0#16 + kind.setWidth 16 + tag.setWidth 16 + hi.setWidth 16 + lo.setWidth 16 + byteSum payload =
      byteSum (frameBody kind tag payload) := by
    simp only [body, byteSum_append, byteSum, BitVec.zero_add, BitVec.add_zero, BitVec.add_assoc]
  have passes : byteSum (frameBody kind tag payload) + halfOf checkHi checkLo = 0#16 := by
    rw [check, byteSum_add_checkOf]
  have arrives : (s.framed (.check (byteSum (frameBody kind tag payload)) kind tag payload (some checkHi))).hostByte
      checkLo = s.accept tag kind payload (decodeRequest kind payload) := by
    rw [State.hostByte_arrives rfl, if_pos passes]
    exact congrArg (fun t : State => t.accept tag kind payload (decodeRequest kind payload)) (State.framed_self hunt)
  rw [bytes, ← State.framed_self hunt, receiveBytes_framed sound (State.hostByte_hunt (s.framed_framer _)), if_pos rfl,
    receiveBytes_header sound,
    receiveBytes_framed sound (State.hostByte_length (s.framed_framer _) (value.trans_le fits)), value,
    receiveBytes_afterLength sound, sum, receiveBytes_framed sound (State.hostByte_check (s.framed_framer _)),
    State.framed_self hunt]
  exact congrArg State.done arrives

/-! ## A frame that decodes is its request (R173, log 1) -/

/-- Only a STAGE reads its payload again, for the running sum (R12). -/
theorem State.serve_payload (s : State) (tag : Byte) {payload : List Byte} {r : Request}
    (same : ∀ load, r = .stage load → payload = requestBytes r) :
    s.serve tag payload r = s.serve tag (requestBytes r) r := by
  cases r with
  | stage load => rw [same load rfl]
  | discard | commit | lock | showForm | write | notice | hold | release | page | reread | stationSet | stationReset
  | suspend | resume | pollScan | pollNext | status | stationStatus | identify | enableEvents | clearEvents
  | partReset => rfl

/-- A request row does what a frame that decodes to its request does (log 1). -/
theorem State.request_decoded (s : State) (tag : Byte) {kind : Byte} {payload : List Byte} {r : Request}
    (decodes : decodeRequest kind payload = some r) (short : (requestBytes r).length ≤ 1024) :
    s.request tag r = s.accept tag kind payload (some r) := by
  obtain ⟨valid, rfl, examined⟩ := decodeRequest_iff.mp decodes
  have same (load : StageLoad) (stage : r = .stage load) : payload = requestBytes r := by
    subst stage
    rw [← examined]
    exact (examinedBytes_of_ne (kind := 0x01#8) (by decide) payload).symm
  have admitted : ¬Config.payloadCapacity < (requestBytes r).length := Nat.not_lt.mpr short
  rw [State.request, if_neg admitted, if_pos valid]
  simp only [State.accept, State.decide, State.serve_payload _ tag same]

/-- Settles O17: the bytes of the frame are the frame accepted (`receiveBytes_frameBytes`), whose payload decodes to the
request. -/
theorem framesRunTheirRequests : Obligations.FramesRunTheirRequests := by
  intro r tag s fits hunt sound
  obtain ⟨valid, short⟩ := Bool.and_eq_true_iff.mp fits
  have short : (requestBytes r).length ≤ 1024 := of_decide_eq_true short
  have decodes := decodeRequest_requestBytes valid
  rw [receiveBytes_frameBytes sound hunt _ _ short, exec_requestRow, decodes, s.request_decoded tag decodes short]

/-! ## What becomes of a frame (R170 to R173) -/

/-- Settles O19: the second length byte and the last check byte in the states of the framer that await them
(`State.hostByte_tooLong`, `State.hostByte_arrives`); a frame that decodes is its request (`State.request_decoded`). -/
theorem framesAreTested : Obligations.FramesAreTested := by
  refine ⟨halfOf_toNat, byteSum_toNat, fun b s sum kind tag hi framer long => ?_,
    fun b s sum kind tag hi payload framer => ?_⟩
  · exact ⟨_, congrArg State.done (State.hostByte_tooLong framer long), rfl, rfl, fun _ => rfl, rfl, rfl⟩
  have arrives := State.hostByte_arrives (b := b) framer
  refine ⟨fun fails => ?_, fun passes full => ?_, fun passes room undecoded => ?_, fun r passes decodes short => ?_⟩
  · rw [if_neg fails] at arrives
    exact ⟨_, congrArg State.done arrives, rfl, rfl, fun _ => rfl, rfl, rfl⟩
  · have overrun : (s.framed .hunt).accept tag kind payload (decodeRequest kind payload) = (s.framed .hunt).overrun :=
      if_neg (Nat.not_lt.mpr full)
    rw [if_pos passes, overrun] at arrives
    exact ⟨_, congrArg State.done arrives, rfl, rfl, fun _ => rfl, rfl, rfl⟩
  · have refused : (s.framed .hunt).accept tag kind payload none =
        (s.framed .hunt).countIn.respond tag (.refuse kind (.code .format)) := if_pos room
    rw [if_pos passes, undecoded, refused] at arrives
    exact ⟨_, congrArg State.done arrives, rfl, rfl, fun _ => rfl, rfl, rfl⟩
  · obtain ⟨-, code, -⟩ := decodeRequest_iff.mp decodes
    rw [if_pos passes, decodes, ← State.request_decoded _ tag decodes short] at arrives
    exact ⟨code, _, congrArg State.done arrives, exec_requestRow tag r (s.framed .hunt)⟩

end Sys2Proof.Machine
end

section
/-! POLL with its two modes (R177 to R180): SCAN collects every waiting station of its set, NEXT the first one of the
circle above the pointer. -/

namespace Sys2Proof.Machine

/-! ## A station collected (R180) -/

/-- Collecting a station empties its slot, clears its attention flag, and asks neither a tone nor a repaint. -/
theorem State.left_collected {s t : State} {i : StationId}
    (h : t.station i = (Act.start (s.station i)).collect.finish (s.station i).image) :
    s.Left t i { s.station i with slot := none, attention := false } false [] ∧
      (s.station i).LineKept (t.station i) :=
  ⟨⟨by rw [h]; rfl, h⟩, h ▸ Act.finish_lineKept (Act.start (s.station i)).collect _⟩

/-- Collecting a station clears its ENTRY-READY and ATTENTION flags and raises nothing. -/
theorem State.collect_events (s : State) (i : StationId) :
    (s.collect i).events = s.events.clearStation i 0x03#8 :=
  congrArg (fun e => EventUnit.clearStation e i 0x03#8) (State.event_events_quiet s i Act.collect rfl)

/-- Collecting the stations of a list clears the flags that clearing them one after another clears. -/
theorem State.collects_events (is : List StationId) {s u : State} (same : s.events = u.events) :
    (is.foldl State.collect s).events =
      (is.foldl (fun t i => { t with events := t.events.clearStation i 0x03#8 }) u).events := by
  induction is generalizing s u with
  | nil => exact same
  | cons i is ih => exact ih (by rw [State.collect_events, same])

/-! ## POLL (R177) -/

theorem State.poll_busy {s : State} (tag : Byte) (set : StationSet) (f : State → State)
    (busy : s.host.polling = .scanning) : s.poll tag set f = s.respond tag (.refuse 0x20#8 (.code .busy)) := by
  simp only [State.poll, busy]

theorem State.poll_idle {s : State} (tag : Byte) (set : StationSet) (f : State → State)
    (idle : ¬s.host.polling = .scanning) : s.poll tag set f = f (s.modHost (·.setGroup set)) := by
  unfold State.poll
  split
  · next busy => exact absurd busy idle
  · rfl

theorem exec_pollScan {s : State} {set : StationSet} (tag : Byte) (named : set ≠ 0#8) (room : s.host.outstanding < 4) :
    exec (.pollScan tag set) s = (s.countIn.poll tag set fun t => t.pollScan tag set).done :=
  congrArg State.done (State.request_served tag room (r := .pollScan set) rfl (by simp [requestBytes])
    (earlyRefusal_eq_none rfl named rfl))

theorem exec_pollNext {s : State} {set : StationSet} (tag : Byte) (named : set ≠ 0#8) (room : s.host.outstanding < 4) :
    exec (.pollNext tag set) s = (s.countIn.poll tag set fun t => t.pollNext tag set).done :=
  congrArg State.done (State.request_served tag room (r := .pollNext set) rfl (by simp [requestBytes])
    (earlyRefusal_eq_none rfl named rfl))

/-! ## POLL SCAN (R178) -/

theorem members_ascending (set : StationSet) : (members set).Pairwise (· < ·) :=
  List.Pairwise.filter _ (by decide)

/-- Settles O35: the stations of the snapshot are each collected once (`State.collects_station`,
`State.collects_events`), and the frames are those of the snapshot. -/
theorem pollScanCollectsTheGroup : Obligations.PollScanCollectsTheGroup := by
  refine ⟨fun set => ⟨members_ascending set, mem_members set⟩, fun tag set s named room => ?_⟩
  have run := exec_pollScan tag named room
  by_cases busy : s.host.polling = .scanning
  · rw [State.poll_busy (s := s.countIn) tag set _ busy] at run
    refine ⟨_, run, rfl, rfl, ?_⟩
    rw [if_pos busy]
    exact ⟨rfl, rfl, fun _ => rfl⟩
  · rw [State.poll_idle (s := s.countIn) tag set _ busy] at run
    let polled := s.countIn.modHost (·.setGroup set)
    let found := (members set).filter fun i => (s.station i).waits
    have nd : found.Nodup := (members_nodup set).filter _
    have stations (i : StationId) : (found.foldl State.collect polled).station i =
        if i ∈ found then (Act.start (s.station i)).collect.finish (s.station i).image else s.station i := by
      rw [State.collects_station found polled nd i, State.collect_station_self]
      rfl
    obtain ⟨part, enables, holdOff, flags⟩ := State.clears_events found polled 0x03#8 nd
    rw [← State.collects_events found (s := polled) rfl] at part enables holdOff flags
    refine ⟨_, run, State.collects_library found polled, State.collects_pending found polled, ?_⟩
    rw [if_neg busy]
    refine ⟨?_, fun i outside => (stations i).trans (if_neg outside), fun i mem => ?_, part, enables, holdOff, flags⟩
    · exact congrArg (fun h : HostLine => ({ h with polling := .scanning } : HostLine).send (scanFrames tag s found))
        (State.collects_host found polled)
    · exact State.left_collected ((stations i).trans (if_pos mem))

/-! ## POLL NEXT (R179) -/

theorem State.pollNext_pending (s : State) (tag : Byte) (set : StationSet) :
    (s.pollNext tag set).pending = s.pending := by
  unfold State.pollNext
  split <;> rfl

/-- How many stations of the circle above the pointer come before a station. -/
def circleDistance (p i : StationId) : Nat := (i.val + 7 - p.val) % 8

theorem mem_circle {p i : StationId} {set : StationSet} : i ∈ circle p set ↔ set.getLsbD i.val = true := by
  simp only [circle, List.mem_append, List.mem_filter, mem_members, decide_eq_true_eq, ← and_or_left]
  exact and_iff_left (lt_or_ge p i)

/-- The circle goes up from above the pointer and ends at the pointer. -/
theorem circle_ascending (p : StationId) (set : StationSet) :
    (circle p set).Pairwise fun i j => circleDistance p i < circleDistance p j := by
  have above {i : StationId} (h : p < i) : circleDistance p i = i.val - p.val - 1 := by
    have := Fin.lt_def.mp h
    unfold circleDistance
    omega
  have below {i : StationId} (h : i ≤ p) : circleDistance p i = i.val + 7 - p.val := by
    have := Fin.le_def.mp h
    unfold circleDistance
    omega
  have part (side : StationId → Bool) : ((members set).filter side).Pairwise (· < ·) := (members_ascending set).filter _
  refine List.pairwise_append.mpr ⟨(part _).imp_of_mem fun mi mj lt => ?_, (part _).imp_of_mem fun mi mj lt => ?_,
    fun i mi j mj => ?_⟩
  all_goals
    have hi := of_decide_eq_true (List.mem_filter.mp mi).2
    have hj := of_decide_eq_true (List.mem_filter.mp mj).2
  · rw [above hi, above hj]
    have := Fin.lt_def.mp lt
    have := Fin.lt_def.mp hi
    omega
  · rw [below hi, below hj]
    have := Fin.lt_def.mp lt
    have := Fin.le_def.mp hj
    omega
  · rw [above hi, below hj]
    have := Fin.lt_def.mp hi
    have := i.isLt
    omega

/-- What NEXT finds is the waiting station of its set with the fewest stations of the circle before it. -/
theorem find_circle {p i : StationId} {set : StationSet} {waits : StationId → Bool} (mem : set.getLsbD i.val = true)
    (here : waits i = true)
    (first : ∀ j : StationId, set.getLsbD j.val = true → waits j = true → circleDistance p i ≤ circleDistance p j) :
    (circle p set).find? waits = some i := by
  obtain ⟨before, after, split⟩ := List.append_of_mem (mem_circle (p := p).mpr mem)
  refine List.find?_eq_some_iff_append.mpr ⟨here, before, after, split, fun j early => ?_⟩
  have ascending := circle_ascending p set
  rw [split] at ascending
  have less : circleDistance p j < circleDistance p i :=
    (List.pairwise_append.mp ascending).2.2 j early i List.mem_cons_self
  have member : set.getLsbD j.val = true := by
    rw [← mem_circle (p := p), split]
    exact List.mem_append_left _ early
  rw [Bool.not_eq_true']
  exact Bool.eq_false_iff.mpr fun waiting => Nat.not_le.mpr less (first j member waiting)

/-- A station waits with an entry or with attention (R178). -/
theorem Station.waits_iff (st : Station) : st.waits = true ↔ st.slot.isSome = true ∨ st.attention = true := by
  rw [Station.waits, Bool.or_eq_true]

/-- Settles O36: the station found is the first of the circle (`find_circle`), and it alone is collected. -/
theorem pollNextServesInTurn : Obligations.PollNextServesInTurn := by
  intro tag set s named room
  have run := exec_pollNext tag named room
  by_cases busy : s.host.polling = .scanning
  · rw [State.poll_busy (s := s.countIn) tag set _ busy] at run
    refine ⟨_, run, rfl, rfl, ?_⟩
    rw [if_pos busy]
    exact ⟨rfl, rfl, fun _ => rfl⟩
  · rw [State.poll_idle (s := s.countIn) tag set _ busy] at run
    let polled := s.countIn.modHost (·.setGroup set)
    refine ⟨_, run, polled.pollNext_library tag set, polled.pollNext_pending tag set, ?_⟩
    rw [if_neg busy]
    intro p waits
    refine ⟨fun nobody => ?_, fun i here first => ?_⟩
    · have found : (circle p set).find? (fun j => (s.station j).waits) = none :=
        List.find?_eq_none.mpr fun j mem waiting =>
          nobody j ⟨mem_circle.mp mem, (s.station j).waits_iff.mp waiting⟩
      have next : polled.pollNext tag set = polled.respond tag (.pollEnd 0) := by
        unfold State.pollNext
        split
        · next j other =>
          cases found.symm.trans other
        · rfl
      rw [next]
      exact ⟨rfl, rfl, fun _ => rfl⟩
    · have found : (circle p set).find? (fun j => (s.station j).waits) = some i :=
        find_circle here.1 ((s.station i).waits_iff.mpr here.2) fun j mem waiting =>
          first j ⟨mem, (s.station j).waits_iff.mp waiting⟩
      have next : polled.pollNext tag set =
          ((polled.collect i).modHost fun h => { h with pointer := i }).respond tag
            (entryResponse i (s.station i)) := by
        unfold State.pollNext
        split
        · next j other =>
          cases found.symm.trans other
          rfl
        · next other => cases found.symm.trans other
      rw [next]
      obtain ⟨left, kept⟩ := State.left_collected (s := s) (polled.collect_station_self i)
      exact ⟨rfl, left, kept, fun j other => polled.collect_station_ne other,
        congrArg EventUnit.drive (polled.collect_events i)⟩

end Sys2Proof.Machine
end

section
/-! What the part reports: STATUS and IDENTIFY (R181 to R183), and the bytes of responses and of downstream messages
(R191, R195 to R199). -/

namespace Sys2Proof.Machine

/-! ## STATUS and IDENTIFY as commands (R181 to R183) -/

theorem exec_status {s : State} (tag : Byte) (room : s.host.outstanding < 4) :
    exec (.status tag) s = (s.countIn.respond tag (.accept (.status s.countIn.statusReport))).done :=
  congrArg State.done (State.request_served tag room (r := .status) rfl (by simp [requestBytes]) rfl)

theorem exec_stationStatus {s : State} (tag : Byte) (i : StationId) (room : s.host.outstanding < 4) :
    exec (.stationStatus tag i) s =
      (s.countIn.respond tag (.accept (.stationStatus (s.countIn.stationReport i)))).done :=
  congrArg State.done (State.request_served tag room (r := .stationStatus i) rfl (by simp [requestBytes]) rfl)

theorem exec_identify {s : State} (tag : Byte) (room : s.host.outstanding < 4) :
    exec (.identify tag) s = (s.countIn.respond tag (.accept .identify)).done :=
  congrArg State.done (State.request_served tag room (r := .identify) rfl (by simp [requestBytes]) rfl)

/-- The stations in their order are the station vector. -/
theorem State.stations_toList (s : State) : s.stations.toList = allStations.map s.station := by
  apply List.ext_getElem
  · simp [allStations]
  · intro n lt _
    have lt : n < 8 := by simpa using lt
    interval_cases n <;> rfl

/-- An answer changes the host line alone, and SRQ takes its level. -/
theorem State.respond_done (s : State) (tag : Byte) (r : Response) :
    ∃ t, (s.countIn.respond tag r).done = .next t ∧ t.host = s.host.answered tag r ∧ s.EventsQuiet t ∧
      s.StationsKept t ∧ t.library = s.library ∧ t.pending = s.pending :=
  ⟨_, rfl, rfl, rfl, fun _ => rfl, rfl, rfl⟩

/-! ## Numbers and lists in bytes (R190) -/

theorem half_eq (n : Nat) : half n = [BitVec.ofNat 8 (n / 256), BitVec.ofNat 8 n] := by
  rw [half, halfBytes_eq, BitVec.toNat_ofNat]
  congr 1
  · apply BitVec.eq_of_toNat_eq
    simp only [BitVec.toNat_ofNat]
    omega
  · congr 1
    apply BitVec.eq_of_toNat_eq
    simp only [BitVec.toNat_ofNat]
    omega

theorem listBytes_singleton {α : Type} (f : α → Byte) (l : List α) :
    listBytes (fun a => [f a]) l = byteOf l.length :: l.map f :=
  congrArg (byteOf l.length :: ·) List.map_eq_flatMap.symm

/-! ## Frames (R171, R191) -/

/-- A frame whose check makes the sum of the bytes from kind through payload 0. -/
theorem frameBytes_check (kind tag : Byte) (payload : List Byte) :
    ∃ hi lo : Byte, frameBytes kind tag payload = 0x5A#8 :: (frameBody kind tag payload ++ [hi, lo]) ∧
      byteSum (frameBody kind tag payload) + halfOf hi lo = 0#16 := by
  obtain ⟨hi, lo, bytes, check⟩ := exists_halfBytes (checkOf (frameBody kind tag payload))
  refine ⟨hi, lo, congrArg (fun c => 0x5A#8 :: (frameBody kind tag payload ++ c)) bytes, ?_⟩
  rw [check]
  exact byteSum_add_checkOf (frameBody kind tag payload)

/-! ## Responses (R195 to R198) -/

theorem outcomeBytes_applied (i : StationId) (late : Bool) (skipped : List (Nat × SkipReason)) (cut : List Nat) :
    outcomeBytes (i, .applied late skipped cut) =
      [byteOf i.val, 0x00#8, boolByte late, byteOf skipped.length] ++
        (skipped.flatMap fun k => [byteOf k.1, skipCode k.2]) ++ byteOf cut.length :: cut.map byteOf := by
  simp only [outcomeBytes, listBytes_singleton]
  rfl

/-- The flags byte of a station STATUS by the weights of its bits (R197). -/
theorem reportFlags_eq (r : StationReport) :
    flagByte [r.settling, r.insert, r.occupied, r.attention, r.timerRunning, r.form.isSome] =
      flagWeight r.settling 1 + flagWeight r.insert 2 + flagWeight r.occupied 4 + flagWeight r.attention 8 +
        flagWeight r.timerRunning 16 + flagWeight r.form.isSome 32 := by
  simp only [flagByte_cons, flagByte_nil, Nat.mul_add, two_mul_flagWeight, Nat.reduceMul, Nat.add_zero, Nat.add_assoc]

theorem policyByte_eq (p : Policy) : policyByte p = boolByte (p == .override) := by cases p <;> rfl

theorem fallbackByte_eq (f : Fallback) : fallbackByte f = boolByte (f == .wedge) := by cases f <;> rfl

theorem statusBytes_eq (r : StatusReport) :
    statusBytes r =
      r.partFlags.setWidth 8 :: (r.stationFlags.toList ++
        [BitVec.ofNat 8 (r.enables.toNat / 256), BitVec.ofNat 8 r.enables.toNat] ++
        [boolByte r.holdOff, boolByte r.srq] ++ half r.checkErrors ++ half r.lengthErrors ++ half r.overruns ++
        [byteOf r.outstanding, pollCode r.polling, r.group, byteOf r.pointer.val] ++ half r.generation ++
        [boolByte r.filling, byteOf r.staged, r.locks.setWidth 8, byteOf r.forms, byteOf r.classes, byteOf r.routes] ++
        r.stations.flatMap fun st => [stateCode st.1, boolByte st.2]) := by
  rw [← enablesBytes_eq]
  rfl

theorem pollCode_eq (p : PollState) : pollCode p = if p = .idle then 0#8 else 1#8 := by cases p <;> rfl

theorem formReportBytes_eq (o : Option FormReport) :
    formReportBytes o =
      match o with
      | none => []
      | some f =>
        byteOf f.number :: ([BitVec.ofNat 8 (f.generation / 256), BitVec.ofNat 8 f.generation] ++
          [byteOf f.page, byteOf f.pages, byteOf f.row, byteOf f.column]) := by
  cases o with
  | none => rfl
  | some f =>
    exact congrArg (fun g => byteOf f.number :: (g ++ [byteOf f.page, byteOf f.pages, byteOf f.row, byteOf f.column]))
      (half_eq f.generation)

theorem stationReportBytes_eq (r : StationReport) :
    stationReportBytes r =
      [byteOf r.station.val, stateCode r.state, keyboardCode r.keyboard, reasonCode r.keyboard,
        byteOf (flagWeight r.settling 1 + flagWeight r.insert 2 + flagWeight r.occupied 4 + flagWeight r.attention 8 +
          flagWeight r.timerRunning 16 + flagWeight r.form.isSome 32),
        byteOf r.items, boolByte r.settings.typeahead, byteOf r.settings.timeout,
        boolByte (r.settings.policy == .override), boolByte (r.settings.fallback == .wedge),
        boolByte r.settings.scanner, boolByte r.settings.tone, boolByte r.up] ++
      half r.parityErrors ++ half r.framingErrors ++
      [byteOf r.scanErrors, scannerCode r.scanner, byteOf r.spans, boolByte r.repaintAll, r.flags] ++
      formReportBytes r.form := by
  simp only [stationReportBytes, settingsBytes, reportFlags_eq, policyByte_eq, fallbackByte_eq, List.cons_append,
    List.nil_append, List.append_assoc]

theorem entryBytes_eq (e : Entry) :
    entryBytes e =
      [intentCode e.intent, byteOf e.page, byteOf e.row, byteOf e.column, e.visited.setWidth 8] ++
        [BitVec.ofNat 8 (e.generation / 256), BitVec.ofNat 8 e.generation] ++
        byteOf e.touched.length :: (e.touched.flatMap fun m => byteOf m.1 :: byteOf m.2.length :: m.2) ++
        byteOf e.computed.length ::
          e.computed.flatMap fun m => byteOf m.field :: resultCode m.result :: byteOf m.text.length :: m.text := by
  rw [entryBytes, half_eq]
  rfl

/-! ## Downstream messages (R199) -/

theorem paint_bytes (row column : Nat) (text : List Byte) (runs : List (Rendition × Nat)) :
    (Message.paint row column text runs).bytes =
      [0x1E#8, 0x11#8, byteOf (text.length + 2 * runs.length + 4), byteOf row, byteOf column, byteOf text.length] ++
        text ++ byteOf runs.length :: (runs.flatMap fun r => [renditionCode r.1, byteOf r.2]) ++ [0x1F#8] := by
  have length : (messageParts (.paint row column text runs)).2.length = text.length + 2 * runs.length + 4 := by
    simp [messageParts, textBytes, listBytes, List.length_flatMap]
    omega
  rw [Message.bytes, envelope, length]
  simp only [messageParts, textBytes, listBytes, List.cons_append, List.nil_append, List.append_assoc]

/-! ## The statement -/

/-- Settles O37: the three requests are answered and change nothing else (`State.respond_done`), and each layout is that
of its record, written out. -/
theorem statusChangesNothing : Obligations.StatusChangesNothing := by
  unfold Obligations.StatusChangesNothing
  refine ⟨fun tag i s room => ⟨?_, ?_, ?_⟩, ?_⟩
  · obtain ⟨t, run, host, rest⟩ := s.respond_done tag (.accept (.status s.countIn.statusReport))
    refine ⟨t, (exec_status tag room).trans run, host.trans ?_, rest⟩
    have stations : s.countIn.stations.toList.map (fun st => (st.state, st.line.up)) =
        allStations.map fun j => ((s.station j).state, (s.station j).line.up) := by
      rw [State.stations_toList, List.map_map]
      rfl
    rw [State.statusReport, stations]
    rfl
  · obtain ⟨t, run, host, rest⟩ := s.respond_done tag (.accept (.stationStatus (s.countIn.stationReport i)))
    exact ⟨t, _, (exec_stationStatus tag i room).trans run, host, rfl, rfl, rfl, rfl, rfl, rfl, rfl, rfl, rfl, rfl, rfl,
      rfl, rfl, rfl, rfl, rfl, rfl, rfl, rfl, rest⟩
  · obtain ⟨t, run, rest⟩ := s.respond_done tag (.accept .identify)
    exact ⟨t, (exec_identify tag room).trans run, rest⟩
  intro one two flag bit
  refine ⟨fun f => ?frames, fun n => ⟨rfl, rfl, rfl⟩, fun g f c r => ?commit, fun kinds => rfl,
    fun kind list => ?outcomes, fun enables => ?enables, fun part flags => rfl, rfl, ?identify, fun r => ?status,
    fun r => ?station, fun kind c => rfl, fun kind o => rfl, fun kind n => ?capacity, ?refusals, ?causes,
    fun i attention => rfl, fun i attention e => ?entry, fun row column text runs => ?paint, rfl,
    fun row column => rfl, rfl, rfl⟩
  case frames =>
    have frame := frameBytes_check (responseKind f.response) f.tag (responseBytes f.response)
    rw [frameBody, half_eq] at frame
    exact frame
  case commit => exact congrArg (fun g => 0x03#8 :: (g ++ [one f, one c, one r])) (half_eq g)
  case outcomes =>
    refine congrArg (fun bs => kind :: one list.length :: bs) (List.flatMap_congr fun m _ => ?_)
    obtain ⟨i, ⟨late, skipped, cut⟩ | c⟩ := m
    · exact outcomeBytes_applied i late skipped cut
    · rfl
  case enables => exact congrArg (0x22#8 :: ·) (enablesBytes_eq enables)
  case identify => decide
  case status =>
    have layout := statusBytes_eq r
    simp only [half_eq, pollCode_eq] at layout
    exact congrArg (0x21#8 :: ·) layout
  case station =>
    have layout := stationReportBytes_eq r
    simp only [half_eq, formReportBytes_eq] at layout
    exact congrArg (0x21#8 :: ·) layout
  case capacity => exact congrArg (fun t => kind :: 0x09#8 :: t) (half_eq n)
  case refusals => decide
  case causes => decide
  case entry => exact congrArg (fun bs => one i.val :: one (bit attention 1 + 2) :: bs) (entryBytes_eq e)
  case paint => exact paint_bytes row column text runs

end Sys2Proof.Machine
end

section
/-! One step of the part (log 6): what it does when a command waits and when none does. -/

open Sys2Proof Sys2Proof.Machine

namespace Sys2Proof.Machine

/-! ## The two cases of a step (log 6) -/

theorem step_of_pending_nil {s : State} (none_waits : s.pending = []) : step s = .next s := by
  rw [step, none_waits]

theorem step_of_pending_cons {s : State} {c : Instr} {rest : List Instr} (front : s.pending = c :: rest) :
    step s = exec c { s with pending := rest } := by
  rw [step, front]

/-! ## The statement -/

/-- Settles O1: the two cases of a step are those of the queue, which the queue put into the state decides. -/
theorem stepRunsTheFrontCommand : Obligations.StepRunsTheFrontCommand := by
  unfold Obligations.StepRunsTheFrontCommand
  constructor
  · intro c rest s
    exact step_of_pending_cons (s := { s with pending := c :: rest }) rfl
  · intro s none_waits
    exact step_of_pending_nil none_waits

end Sys2Proof.Machine
end
